-- ==== Sys2Proof/Word.lean ====
section
/-!
DEFINITION. The two widths of value the codec block handles (00_scope.md R22; 20_memory.md R50):
a byte, and the 16-bit word of the accumulator and the checksum. Both are unsigned bit vectors;
bit 0 is the least significant bit (R23).
-/

namespace Sys2Proof

/-- `Byte`: an unsigned 8-bit value, 0..255 (00_scope.md R22). -/
abbrev Byte := BitVec 8

/-- `UInt16` of the spec: an unsigned 16-bit value, 0..65535 (00_scope.md R22; CRC_WIDTH = 16, R11). -/
abbrev Word := BitVec 16

end Sys2Proof
end

