-- ==== Sys2Proof/Machine/Literals.lean ====
section
/-!
DEFINITION. The numeric literals the source fixes (00_scope.md R8 to R16). The spec calls them
"unaudited" (93_implementation_defined.md I4) and takes each as the source states it. They stand in a
file of Machine/ so that a later repair can mend one of them.
-/

namespace Sys2Proof.Machine

/-- `POLY`, the reflected generator constant (R8; 90_conflicts.md C2). -/
def poly : Word := 0x8408#16

/-- `CRC_INIT` the constant: the accumulator before the first byte of a computation (R9). -/
def crcInitValue : Word := 0x0000#16

/-- `MAX_DATA`: the most data bytes FRAME_ENCODE accepts (R12). -/
def maxData : Nat := 249

/-- `OVERHEAD`: sync, address, length, command and two checksum bytes (R13). -/
def overhead : Nat := 6

/-- `MAX_FRAME`: the longest frame, `MAX_DATA + OVERHEAD` (R14). -/
def maxFrame : Nat := 255

/-- `MIN_USABLE`: the least raw length FRAME_DECODE uses (R15). -/
def minUsable : Nat := 4

/-- `MIN_CHECKED`: the least raw length that holds a checksum field (R16). -/
def minChecked : Nat := 6

end Sys2Proof.Machine
end

