-- ==== Sys2Proof/Syntax.lean ====
section
/-!
DEFINITION. The syntax of the codec block's operation interface (30_encoding.md sections 2 to 4): the
request record, the operations of the opcode table, the commands the source names, and the
pseudo-instructions.
-/

namespace Sys2Proof

/-- A request as it passes over the port (30_encoding.md R73). An operation reads only the fields R79
lists for it. -/
structure Request where
  /-- operation select (R77) -/
  opc : Byte
  /-- CRC_UPDATE: the byte to fold in -/
  b   : Byte
  /-- FRAME_ENCODE: the command byte -/
  cmd : Byte
  /-- CRC_COMPUTE: the bytes; FRAME_ENCODE: the data; FRAME_DECODE, FRAME_CHECK: the raw input -/
  buf : List Byte
  deriving DecidableEq, Repr

/-- The instructions: one constructor per row of `opcode_table.json`, each with the operand fields R79
says it reads. -/
inductive Instr where
  /-- CRC_INIT (40_crc.md R102) -/
  | crcInit
  /-- CRC_UPDATE b (40_crc.md R103) -/
  | crcUpdate (b : Byte)
  /-- CRC_READ (40_crc.md R104) -/
  | crcRead
  /-- CRC_COMPUTE [buf] (40_crc.md R105) -/
  | crcCompute (buf : List Byte)
  /-- FRAME_ENCODE cmd, [buf] (41_frame_encode.md R120) -/
  | frameEncode (cmd : Byte) (buf : List Byte)
  /-- FRAME_DECODE [buf] (42_frame_decode.md R142) -/
  | frameDecode (buf : List Byte)
  /-- FRAME_CHECK [buf] (42_frame_decode.md R143) -/
  | frameCheck (buf : List Byte)
  /-- RESERVED: `.OPC 0xNN`, a request with a reserved opc (60_exceptions.md R176) -/
  | reserved (opc : Byte)
  deriving DecidableEq, Repr

/-- The seven operations of 30_encoding.md R77, without their operands. -/
inductive Operation where
  | crcInit | crcUpdate | crcRead | crcCompute | frameEncode | frameDecode | frameCheck
  deriving DecidableEq, Repr

/-- A row of the operation map of 30_encoding.md R77: an opc with all bits of `mask` equal to those of
`pattern` selects `op`. -/
structure OpcRow where
  mask    : Byte
  pattern : Byte
  op      : Operation
  deriving DecidableEq, Repr

/-- The source's eleven commands (30_encoding.md R82). -/
inductive Command where
  | ack | reset | getStatus | setSecurity | poll | enableBillTypes | stack | return_
  | identification | hold | nak
  deriving DecidableEq, Repr

/-- The pseudo-instructions (30_encoding.md R86); no others exist. -/
inductive Pseudo where
  /-- `CRC.STREAM [b0 b1 ... bk]` -/
  | crcStream (bs : List Byte)
  /-- `ENC.<C> [data]` -/
  | enc (c : Command) (data : List Byte)
  deriving DecidableEq, Repr

/-- Why a table word is no operation-select byte. The spec gives the request no byte-serial form
(30_encoding.md R81), so the only words are the eight bits of `opc`. -/
inductive DecodeReject where
  /-- the word is not eight bits wide; safe: no such form exists -/
  | notEightBits (nbits : Nat)
  /-- the number does not fit in eight bits; safe: no such form exists -/
  | valueTooWide (w : Nat)
  deriving DecidableEq, Repr

end Sys2Proof
end

