-- ==== Sys2Proof/Config.lean ====
section
/-!
DEFINITION. The parameters of the model (00_scope.md R17 to R21), fixed for a whole run
(10_state.md R31). They are one record of plain data, so that a claim can quantify over them or name
them (92_eei_decisions.md D8, D9). Assumption log 1 and 2.
-/

namespace Sys2Proof

/-- `CMD_CODE : Command -> Byte` as plain data, one byte per command (00_scope.md R19; 30_encoding.md R82). -/
structure CommandCodes where
  ack             : Byte
  reset           : Byte
  getStatus       : Byte
  setSecurity     : Byte
  poll            : Byte
  enableBillTypes : Byte
  stack           : Byte
  return_         : Byte
  identification  : Byte
  hold            : Byte
  nak             : Byte
  deriving DecidableEq, Repr

/-- The opcode byte of a command under a table (00_scope.md R19). -/
def CommandCodes.code (t : CommandCodes) : Command → Byte
  | .ack => t.ack
  | .reset => t.reset
  | .getStatus => t.getStatus
  | .setSecurity => t.setSecurity
  | .poll => t.poll
  | .enableBillTypes => t.enableBillTypes
  | .stack => t.stack
  | .return_ => t.return_
  | .identification => t.identification
  | .hold => t.hold
  | .nak => t.nak

/-- The model's parameters (00_scope.md R17 to R21). -/
structure Params where
  /-- `SYNC_BYTE`, the byte FRAME_ENCODE writes at index 0 (R17) -/
  syncByte     : Byte
  /-- `ADDR_BYTE`, the byte FRAME_ENCODE writes at index 1 (R18) -/
  addrByte     : Byte
  /-- `CMD_CODE`; no operation of the block reads it, the pseudo-instruction `ENC.<C>` does (R19) -/
  cmdCode      : CommandCodes
  /-- `STRICT_DECODE`, the mode of FRAME_DECODE (R20) -/
  strictDecode : Bool
  /-- `RAW_BUF_MAX`, the longest `buf` operand the hardware accepts (R21) -/
  rawBufMax    : Nat
  deriving DecidableEq, Repr

/-- The constraint R21 puts on the parameters: `RAW_BUF_MAX ≥ MAX_FRAME`. -/
abbrev Params.wf (p : Params) : Prop := Machine.maxFrame ≤ p.rawBufMax

/-- The suggested `CMD_CODE` table (30_encoding.md R82, from general knowledge). PRESUMED, log 2. -/
def CommandCodes.suggested : CommandCodes where
  ack := 0x00#8
  reset := 0x30#8
  getStatus := 0x31#8
  setSecurity := 0x32#8
  poll := 0x33#8
  enableBillTypes := 0x34#8
  stack := 0x35#8
  return_ := 0x36#8
  identification := 0x37#8
  hold := 0x38#8
  nak := 0xFF#8

/-- The parameter values `State.reset` carries: the suggested sync and address bytes (R17, R18;
PRESUMED, log 2), the default mode (R20) and the least capacity R21 admits (DESIGN CHOICE, log 2).
They are an example; every statement about all states is about all parameter values. -/
def Params.suggested : Params where
  syncByte := 0x02#8
  addrByte := 0x03#8
  cmdCode := CommandCodes.suggested
  strictDecode := false
  rawBufMax := 255

end Sys2Proof
end

