-- ==== Sys2Proof/Machine/State.lean ====
section
/-!
DEFINITION. The state of the machine and the reasons a step can stop.

The codec block's one architectural register is ACC (10_state.md R26). Beside it stand the list of
responses given so far (70_reset_and_hazards.md R209), what the host has still to present on the
request port, and the parameters, which no step writes (10_state.md R31). INVENTORY.md lists what the
spec says does not exist.
-/

namespace Sys2Proof.Machine

/-- The outcome of an operation (30_encoding.md R76). -/
inductive Status where
  /-- the operation completed -/
  | ok
  /-- the input has fewer than 4 bytes; tolerated, not an error (60_exceptions.md R171) -/
  | shortFrame
  /-- the data has more than 249 bytes (R172) -/
  | frameTooLarge
  /-- strict check: 4 or 5 bytes, so no checksum field (R173) -/
  | noChecksum
  /-- strict check: the length byte is not the input length (R174) -/
  | lengthMismatch
  /-- strict check: the embedded checksum is not the CRC of the covered bytes (R175) -/
  | checksumMismatch
  /-- the opc value is reserved (R176) -/
  | illegalOperation
  deriving DecidableEq, Repr

/-- What FRAME_DECODE returns (30_encoding.md R75). -/
structure DecodedFrame where
  /-- the input, unchanged -/
  raw      : List Byte
  sync     : Byte
  addr     : Byte
  /-- the length byte, not checked in lenient mode -/
  len      : Byte
  cmd      : Byte
  data     : List Byte
  /-- the embedded checksum, when the input has a checksum field -/
  checksum : Option Word
  deriving DecidableEq, Repr

/-- A response of the codec block (30_encoding.md R74). A field the operation does not set is `none`. -/
structure Response where
  status : Status
  /-- CRC_READ, CRC_COMPUTE -/
  value  : Option Word
  /-- FRAME_ENCODE: the frame -/
  bytes  : Option (List Byte)
  /-- FRAME_DECODE -/
  frame  : Option DecodedFrame
  deriving DecidableEq, Repr

/-- What the host presents to the block: a request (30_encoding.md R73), or a reset between two
operations (70_reset_and_hazards.md R200). -/
inductive HostEvent where
  | request (r : Request)
  | reset
  deriving DecidableEq, Repr

/-- The machine's state. -/
structure State where
  /-- ACC, the CRC accumulator, the block's one architectural register (10_state.md R26) -/
  acc       : Word
  /-- the responses given so far, oldest first (70_reset_and_hazards.md R209; log 5) -/
  responses : List Response
  /-- what the host has still to present, oldest first; the MODEL's own field (log 4) -/
  port      : List HostEvent
  /-- the parameters of 00_scope.md R17 to R21, which no step writes; the MODEL's own field (log 1) -/
  params    : Params
  deriving DecidableEq, Repr

/-- The faults: none. No condition of the block traps (60_exceptions.md R170, R180), so no step can
fault and this type has no constructor. Log 7. -/
inductive Fault where
  deriving DecidableEq, Repr

/-- The refusals. -/
inductive Refusal where
  /-- raised by an arm of `exec` whose instruction has no meaning yet; safe: nothing can be proved of it -/
  | notModelled (mnemonic : String)
  /-- INPUT_BEYOND_CAPACITY, raised by CRC_COMPUTE, FRAME_ENCODE, FRAME_DECODE and FRAME_CHECK for a `buf`
  longer than RAW_BUF_MAX: the spec gives the request no meaning (60_exceptions.md R178); safe. Log 6. -/
  | inputBeyondCapacity
  deriving DecidableEq, Repr

/-- What the block finds on its port when a step begins: nothing, a reset event, or a request, each of
the last two with the state in which the event has been taken off the port. -/
inductive Presented where
  | nothing
  | reset (s : State)
  | request (r : Request) (s : State)
  deriving DecidableEq, Repr

/-- The machine right after reset: ACC = 0x0000 (10_state.md R27; 70_reset_and_hazards.md R200), no
response given yet, nothing presented, and the suggested parameters (log 1, 2). -/
def State.reset : State where
  acc := 0x0000#16
  responses := []
  port := []
  params := Params.suggested

end Sys2Proof.Machine
end

