-- ==== Sys2Proof/Machine/Operands.lean ====
section
/-!
DEFINITION. The operand and field forms: the byte order of the checksum (20_memory.md R44), and the
split of a raw input into the fields of a frame (42_frame_decode.md R140, R141). Operands are used
exactly as given (30_encoding.md R79). Every read is at an index the input has (00_scope.md R24).
-/

namespace Sys2Proof.Machine

/-- `v[7:0]`, checksum byte 0 (00_scope.md R23; 20_memory.md R44). -/
def lowByte (v : Word) : Byte := v.extractLsb' 0 8

/-- `v[15:8]`, checksum byte 1 (00_scope.md R23; 20_memory.md R44). -/
def highByte (v : Word) : Byte := v.extractLsb' 8 8

/-- `zext_16(b)`: a byte is never signed (00_scope.md R22; 92_eei_decisions.md D7). -/
def zext16 (b : Byte) : Word := b.setWidth 16

/-- `zext_16(lo) | (zext_16(hi) << 8)` (20_memory.md R44). -/
def joinBytes (lo hi : Byte) : Word := zext16 lo ||| (zext16 hi <<< 8)

/-- `embedded_checksum(raw)`: the last two bytes, low byte first, of an input that has a checksum field
(20_memory.md R44; `checksum_of`, 42_frame_decode.md R141). -/
def checksumOf (raw : List Byte) : Option Word :=
  if h : 6 ≤ raw.length then
    some (joinBytes (raw[raw.length - 2]'(by omega)) (raw[raw.length - 1]'(by omega)))
  else none

/-- `data_of(raw)`: the bytes after the header, less the checksum where there is one; split by the input
length, never by the length byte (42_frame_decode.md R141). -/
def dataOf (raw : List Byte) : List Byte :=
  if 6 ≤ raw.length then (raw.take (raw.length - 2)).drop 4 else raw.drop 4

/-- `split(raw)`, for an input of at least four bytes: fields by position, no value checked
(42_frame_decode.md R140). `none` exactly for a shorter input, which has no such fields (log 11). -/
def split (raw : List Byte) : Option DecodedFrame :=
  match raw with
  | sync :: addr :: len :: cmd :: _ =>
    some ⟨raw, sync, addr, len, cmd, dataOf raw, checksumOf raw⟩
  | _ => none

end Sys2Proof.Machine
end

