-- ==== Sys2Proof/WellFormed.lean ====
section
/-!
DEFINITION. Well-formed instructions: those a request can stand for. Every operand of every width and
length is admitted (30_encoding.md R79, R83; 20_memory.md R42); the one check is that a `reserved`
instruction carries a reserved opc (R78). A `buf` beyond RAW_BUF_MAX is well formed: it is refused
when the request is served, after the opc check (60_exceptions.md R177, R178).
-/

namespace Sys2Proof

/-- The reserved opc values: 0x00 and 0x08 to 0xFF (30_encoding.md R78). -/
abbrev ReservedOpc (opc : Byte) : Prop := opc = 0x00#8 ∨ 0x08#8 ≤ opc

/-- A well-formed instruction. -/
def Instr.wf : Instr → Bool
  | .crcInit => true
  | .crcUpdate _ => true
  | .crcRead => true
  | .crcCompute _ => true
  | .frameEncode _ _ => true
  | .frameDecode _ => true
  | .frameCheck _ => true
  | .reserved opc => decide (ReservedOpc opc)

end Sys2Proof
end

