-- ==== Sys2Proof/Decode.lean ====
section
/-!
DEFINITION. Decoding a request into an instruction, and after it the encoder, the expansion of
pseudo-instructions and the assembler text (30_encoding.md sections 2 to 4).
-/

namespace Sys2Proof

/-- The operation map of 30_encoding.md R77. All eight bits of `opc` are compared. -/
def opcTable : List OpcRow :=
  [ ⟨0xFF#8, 0b00000001#8, .crcInit⟩,
    ⟨0xFF#8, 0b00000010#8, .crcUpdate⟩,
    ⟨0xFF#8, 0b00000011#8, .crcRead⟩,
    ⟨0xFF#8, 0b00000100#8, .crcCompute⟩,
    ⟨0xFF#8, 0b00000101#8, .frameEncode⟩,
    ⟨0xFF#8, 0b00000110#8, .frameDecode⟩,
    ⟨0xFF#8, 0b00000111#8, .frameCheck⟩ ]

/-- Whether an opc has the bits of a row. -/
def OpcRow.covers (row : OpcRow) (opc : Byte) : Bool := opc &&& row.mask == row.pattern

/-- The operation an opc selects; `none` for a reserved opc (R77, R78). -/
def selectOperation (opc : Byte) : Option Operation :=
  (opcTable.find? fun row => row.covers opc).map OpcRow.op

/-- The instruction a request stands for: the operation its opc selects with the operand fields that
operation reads (R79). Total: every opc names an operation of R77 or is reserved (R78, R80). -/
def decode (r : Request) : Instr :=
  match selectOperation r.opc with
  | some .crcInit => .crcInit
  | some .crcUpdate => .crcUpdate r.b
  | some .crcRead => .crcRead
  | some .crcCompute => .crcCompute r.buf
  | some .frameEncode => .frameEncode r.cmd r.buf
  | some .frameDecode => .frameDecode r.buf
  | some .frameCheck => .frameCheck r.buf
  | none => .reserved r.opc

/-- The request an assembler line stands for (R85). A field the operation does not read is written as
zero or empty; DESIGN CHOICE, log 9. -/
def encode : Instr → Request
  | .crcInit => ⟨0x01#8, 0#8, 0#8, []⟩
  | .crcUpdate b => ⟨0x02#8, b, 0#8, []⟩
  | .crcRead => ⟨0x03#8, 0#8, 0#8, []⟩
  | .crcCompute buf => ⟨0x04#8, 0#8, 0#8, buf⟩
  | .frameEncode cmd buf => ⟨0x05#8, 0#8, cmd, buf⟩
  | .frameDecode buf => ⟨0x06#8, 0#8, 0#8, buf⟩
  | .frameCheck buf => ⟨0x07#8, 0#8, 0#8, buf⟩
  | .reserved opc => ⟨opc, 0#8, 0#8, []⟩

/-- The request whose `opc` is the table word `w` and whose other fields are zero or empty (log 9). -/
def requestOfTableWord (nbits w : Nat) : Request :=
  ⟨BitVec.ofNat 8 (w % 2 ^ nbits), 0#8, 0#8, []⟩

/-- Decode a table word, rejecting by name a word that is not the eight bits of an `opc` (log 9). -/
def decodeWord (nbits w : Nat) : Except DecodeReject Instr :=
  if nbits ≠ 8 then .error (.notEightBits nbits)
  else if 256 ≤ w then .error (.valueTooWide w)
  else .ok (decode (requestOfTableWord nbits w))

/-- The instruction the decoder reads from a table word. -/
def decodeTableWord (nbits w : Nat) : Option Instr :=
  match decodeWord nbits w with
  | .ok i => some i
  | .error _ => none

/-- The expansion of a pseudo-instruction under a command table (R86). -/
def Pseudo.expand (codes : CommandCodes) : Pseudo → List Instr
  | .crcStream bs => .crcInit :: bs.map .crcUpdate
  | .enc c data => [.frameEncode (codes.code c) data]

/-- The agreement of two requests on every field that the operation of the first reads (R79): the opc
always, and then `b`, `buf`, or `cmd` and `buf`. -/
def Request.agreesOnRead (r r' : Request) : Prop :=
  r.opc = r'.opc ∧
    match selectOperation r.opc with
    | some .crcUpdate => r.b = r'.b
    | some .crcCompute => r.buf = r'.buf
    | some .frameEncode => r.cmd = r'.cmd ∧ r.buf = r'.buf
    | some .frameDecode => r.buf = r'.buf
    | some .frameCheck => r.buf = r'.buf
    | some .crcInit => True
    | some .crcRead => True
    | none => True

/-- A hexadecimal digit, upper case as the spec's examples write it (log 12). -/
def hexDigit (n : Nat) : Char := "0123456789ABCDEF".toList.getD n '0'

/-- A byte as two hexadecimal digits (R85). -/
def hexByte (b : Byte) : String :=
  String.ofList [hexDigit (b.toNat / 16), hexDigit (b.toNat % 16)]

/-- A byte sequence in brackets, first byte first (R85). -/
def hexBytes (bs : List Byte) : String :=
  "[" ++ String.intercalate " " (bs.map hexByte) ++ "]"

/-- The assembler text of an instruction (R85). -/
def Instr.asmText : Instr → String
  | .crcInit => "CRC.INIT"
  | .crcUpdate b => "CRC.UPDATE 0x" ++ hexByte b
  | .crcRead => "CRC.READ"
  | .crcCompute buf => "CRC.COMPUTE " ++ hexBytes buf
  | .frameEncode cmd buf => "FRAME.ENCODE 0x" ++ hexByte cmd ++ ", " ++ hexBytes buf
  | .frameDecode buf => "FRAME.DECODE " ++ hexBytes buf
  | .frameCheck buf => "FRAME.CHECK " ++ hexBytes buf
  | .reserved opc => ".OPC 0x" ++ hexByte opc

end Sys2Proof
end

