-- ==== Sys2Proof/Machine/Ops.lean ====
section
/-!
DEFINITION. The shared operations of the machine: reading and writing ACC, ending an operation with a
response, reporting a condition, refusing an input beyond capacity, taking an event off the port, and
reset. The block has no memory, so there are no memory operations (20_memory.md R40).
-/

namespace Sys2Proof.Machine

/-- The outcome of a step of this machine. -/
abbrev Result := Host.Outcome State Fault Refusal

/-- `ACC` read (00_scope.md R25; 10_state.md R26). -/
def readAcc (s : State) : Word := s.acc

/-- `ACC <- v` (00_scope.md R25; 10_state.md R26). -/
def writeAcc (v : Word) (s : State) : State := { s with acc := v }

/-- The response that reports only a status; every other field is `none` (30_encoding.md R74). -/
def Response.ofStatus (st : Status) : Response := ⟨st, none, none, none⟩

/-- The OK response of CRC_READ and CRC_COMPUTE (40_crc.md R104, R105). -/
def Response.ofValue (v : Word) : Response := ⟨.ok, some v, none, none⟩

/-- The OK response of FRAME_ENCODE (41_frame_encode.md R120). -/
def Response.ofBytes (f : List Byte) : Response := ⟨.ok, none, some f, none⟩

/-- The OK response of FRAME_DECODE (42_frame_decode.md R142). -/
def Response.ofFrame (d : Option DecodedFrame) : Response := ⟨.ok, none, none, d⟩

/-- The state with one more response given (70_reset_and_hazards.md R209; log 5). -/
def pushResponse (r : Response) (s : State) : State := { s with responses := s.responses ++ [r] }

/-- `respond(r)`: ends the operation and gives the response `r` (00_scope.md R25). -/
def respond (r : Response) (s : State) : Result := .next (pushResponse r s)

/-- `raise S`: ends the operation with a status and writes no state (00_scope.md R25; 60_exceptions.md
R170). This is the whole of taking a condition on this block: nothing is saved, no mode changes, no
handler runs, and so there is no return from one (R180, R181). -/
def raiseStatus (st : Status) (s : State) : Result := respond (Response.ofStatus st) s

/-- Go on with `k` when a `buf` operand is within RAW_BUF_MAX, else `refuse(INPUT_BEYOND_CAPACITY)`
(60_exceptions.md R178). -/
def withinCapacity (buf : List Byte) (s : State) (k : Result) : Result :=
  if s.params.rawBufMax < buf.length then .refused .inputBeyondCapacity else k

/-- Take the next event off the port (20_memory.md R55). -/
def takeEvent (s : State) : Presented :=
  match s.port with
  | [] => .nothing
  | .reset :: rest => .reset { s with port := rest }
  | .request r :: rest => .request r { s with port := rest }

/-- The reset action: ACC to its reset value, nothing else (70_reset_and_hazards.md R200; log 10). -/
def resetBlock (s : State) : State := { s with acc := 0x0000#16 }

/-- Put requests at the head of the port, first one first: how a host's program is presented. -/
def present (rs : List Request) (s : State) : State :=
  { s with port := rs.map .request ++ s.port }

/-- Present the requests that a sequence of instructions stands for. -/
def issue (is : List Instr) (s : State) : State := present (is.map encode) s

end Sys2Proof.Machine
end

