-- ==== Sys2Proof/Machine/Crc.lean ====
section
/-!
DEFINITION. The CRC-16 algorithm (40_crc.md R100, R101) and the four operations built on it: CRC_INIT,
CRC_UPDATE, CRC_READ, CRC_COMPUTE (R102 to R105).
-/

namespace Sys2Proof.Machine

/-- `k` of the iterations of R100: if the low bit is set, shift right one and XOR with POLY, else shift
right one; then the iterations that are left. -/
def crcShifts : Nat → Word → Word
  | 0, a => a
  | k + 1, a => if a.getLsbD 0 then crcShifts k ((a >>> 1) ^^^ poly) else crcShifts k (a >>> 1)

/-- `crc16_byte(acc, b)`: XOR the zero-extended byte into the accumulator, then eight iterations (R100). -/
def crc16Byte (acc : Word) (b : Byte) : Word := crcShifts 8 (acc ^^^ zext16 b)

/-- `fold(crc16_byte, a, s)`: fold the bytes in index order from an accumulator value (R101, R106). -/
def crcFold (a : Word) (s : List Byte) : Word := s.foldl crc16Byte a

/-- `crc16(s)`: fold from CRC_INIT, with no final XOR (R101). -/
def crc16 (s : List Byte) : Word := crcFold crcInitValue s

/-- CRC_INIT: `ACC <- CRC_INIT` (R102). -/
def execCrcInit (s : State) : Result := respond (Response.ofStatus .ok) (writeAcc crcInitValue s)

/-- CRC_UPDATE b: `ACC <- crc16_byte(ACC, b)` (R103). -/
def execCrcUpdate (b : Byte) (s : State) : Result :=
  respond (Response.ofStatus .ok) (writeAcc (crc16Byte (readAcc s) b) s)

/-- CRC_READ: the value of ACC, which does not change (R104). -/
def execCrcRead (s : State) : Result := respond (Response.ofValue (readAcc s)) s

/-- CRC_COMPUTE [buf]: the CRC of the whole sequence in a private accumulator; ACC is neither read nor
written (R105; 10_state.md R33). -/
def execCrcCompute (buf : List Byte) (s : State) : Result :=
  withinCapacity buf s (respond (Response.ofValue (crc16 buf)) s)

end Sys2Proof.Machine
end

