-- ==== Sys2Proof/Machine/Flags.lean ====
section
/-!
DEFINITION. The computation of statuses. The block has no flags (10_state.md R30): in their place each
operation reports a status in its own response (30_encoding.md R76). Here are the codes of the
statuses, the strict check (42_frame_decode.md R144) and the status of FRAME_DECODE in its two modes
(R142).
-/

namespace Sys2Proof.Machine

/-- The 8-bit code of a status (30_encoding.md R76). -/
def Status.code : Status → Byte
  | .ok => 0x00#8
  | .shortFrame => 0x01#8
  | .frameTooLarge => 0x02#8
  | .noChecksum => 0x03#8
  | .lengthMismatch => 0x04#8
  | .checksumMismatch => 0x05#8
  | .illegalOperation => 0x06#8

/-- `strict_check(raw)`: the first check that fails, in the order of 42_frame_decode.md R144. The sync
and address values are not checked. -/
def strictCheck (raw : List Byte) : Status :=
  if raw.length < minUsable then .shortFrame
  else if raw.length < minChecked then .noChecksum
  else if raw[2]?.map BitVec.toNat ≠ some raw.length then .lengthMismatch
  else if some (crc16 (raw.take (raw.length - 2))) ≠ checksumOf raw then .checksumMismatch
  else .ok

/-- The status of FRAME_DECODE: short inputs are reported in both modes; the strict check decides only
in strict mode (42_frame_decode.md R142, R147). -/
def decodeStatus (strict : Bool) (raw : List Byte) : Status :=
  if raw.length < minUsable then .shortFrame
  else if strict then strictCheck raw
  else .ok

end Sys2Proof.Machine
end

