-- ==== Sys2Proof/Machine/Frame.lean ====
section
/-!
DEFINITION. The frame operations: FRAME_ENCODE (41_frame_encode.md R120), FRAME_DECODE and FRAME_CHECK
(42_frame_decode.md R142, R143). None of them reads or writes ACC (10_state.md R33).
-/

namespace Sys2Proof.Machine

/-- The bytes a frame's checksum covers: sync, address, length, command and data. The length byte holds
the total frame byte count (30_encoding.md R70 to R72; 41_frame_encode.md R120). -/
def frameBody (p : Params) (cmd : Byte) (data : List Byte) : List Byte :=
  [p.syncByte, p.addrByte, BitVec.ofNat 8 (data.length + overhead), cmd] ++ data

/-- The bytes with their checksum after them, low byte first (20_memory.md R44). -/
def appendChecksum (body : List Byte) : List Byte :=
  body ++ [lowByte (crc16 body), highByte (crc16 body)]

/-- The frame FRAME_ENCODE builds (41_frame_encode.md R120). Nothing is escaped. -/
def buildFrame (p : Params) (cmd : Byte) (data : List Byte) : List Byte :=
  appendChecksum (frameBody p cmd data)

/-- FRAME_ENCODE cmd, [buf]: FRAME_TOO_LARGE beyond MAX_DATA, else the frame (41_frame_encode.md R120). -/
def execFrameEncode (cmd : Byte) (buf : List Byte) (s : State) : Result :=
  withinCapacity buf s
    (if maxData < buf.length then raiseStatus .frameTooLarge s
     else respond (Response.ofBytes (buildFrame s.params cmd buf)) s)

/-- FRAME_DECODE [buf]: a status other than OK alone, else the decoded frame (42_frame_decode.md R142). -/
def execFrameDecode (buf : List Byte) (s : State) : Result :=
  withinCapacity buf s
    (match decodeStatus s.params.strictDecode buf with
     | .ok => respond (Response.ofFrame (split buf)) s
     | st => raiseStatus st s)

/-- FRAME_CHECK [buf]: the verdict of the strict check in every mode, and nothing else
(42_frame_decode.md R143). -/
def execFrameCheck (buf : List Byte) (s : State) : Result :=
  withinCapacity buf s (respond (Response.ofStatus (strictCheck buf)) s)

end Sys2Proof.Machine
end

