-- ==== Sys2Proof/Machine/Reserved.lean ====
section
/-!
DEFINITION. A request with a reserved opc (30_encoding.md R78; 60_exceptions.md R176).
-/

namespace Sys2Proof.Machine

/-- RESERVED: ILLEGAL_OPERATION; no operand field is read and no state is written (R176). The opc value
itself plays no part beyond having been reserved. -/
def execReserved (_opc : Byte) (s : State) : Result := raiseStatus .illegalOperation s

end Sys2Proof.Machine
end

