-- ==== Sys2Proof/Machine/Dispatch.lean ====
section
/-!
DEFINITION. What each instruction does: one arm per constructor, one meaning per arm.
-/

namespace Sys2Proof.Machine

def exec (i : Instr) (s : State) : Host.Outcome State Fault Refusal :=
  match i with
  | .crcInit => Sys2Proof.Machine.execCrcInit s
  | .crcUpdate b => Sys2Proof.Machine.execCrcUpdate b s
  | .crcRead => Sys2Proof.Machine.execCrcRead s
  | .crcCompute buf => Sys2Proof.Machine.execCrcCompute buf s
  | .frameEncode cmd buf => Sys2Proof.Machine.execFrameEncode cmd buf s
  | .frameDecode buf => Sys2Proof.Machine.execFrameDecode buf s
  | .frameCheck buf => Sys2Proof.Machine.execFrameCheck buf s
  | .reserved opc => Sys2Proof.Machine.execReserved opc s

end Sys2Proof.Machine
end

