-- ==== Sys2Proof/Machine/Step.lean ====
section
/-!
DEFINITION. One step of the machine: the block takes the next event off its port and serves it whole
(00_scope.md R4; 20_memory.md R51, R55). A request is decoded and executed; a reset event resets ACC
(70_reset_and_hazards.md R200); with nothing presented the state does not change (log 8).
-/

namespace Sys2Proof.Machine

/-- One step. -/
def step (s : State) : Host.Outcome State Fault Refusal :=
  match takeEvent s with
  | .nothing => .next s
  | .reset s' => .next (resetBlock s')
  | .request r s' => exec (decode r) s'

/-- `s` with a table word's request presented ahead of everything else, so that the next step serves
exactly it (log 9). -/
def State.withFetchWord (s : State) (nbits w : Nat) : State :=
  present [requestOfTableWord nbits w] s

end Sys2Proof.Machine
end

