-- ==== Sys2Proof/Safety.lean ====
section
/-!
DEFINITION. The terms claims are stated in: runs, what it takes for a request to be refused, the legal
responses, and the invariant of the machine.
-/

namespace Sys2Proof.Machine

/-- `n` steps of the machine behind the host's interface, stopping at the first refusal. -/
def run (n : Nat) (s : State) : Result := Host.Core.run Sys2Proof.core n s

/-- The `buf` operand of an instruction that has one (30_encoding.md R79). -/
def bufOperand : Instr → Option (List Byte)
  | .crcInit => none
  | .crcUpdate _ => none
  | .crcRead => none
  | .crcCompute buf => some buf
  | .frameEncode _ buf => some buf
  | .frameDecode buf => some buf
  | .frameCheck buf => some buf
  | .reserved _ => none

/-- The instruction's `buf` operand, if it has one, is within RAW_BUF_MAX, so that it is not refused
(60_exceptions.md R178). -/
abbrev FitsCapacity (p : Params) (i : Instr) : Prop :=
  ∀ buf ∈ bufOperand i, buf.length ≤ p.rawBufMax

/-- The requests among the events of a port, in order. -/
def requestsOf : List HostEvent → List Request
  | [] => []
  | .request r :: rest => r :: requestsOf rest
  | .reset :: rest => requestsOf rest

/-- Every request still to be presented fits the capacity. -/
abbrev PortFitsCapacity (s : State) : Prop :=
  ∀ r ∈ requestsOf s.port, FitsCapacity s.params (decode r)

/-- What one event does to ACC: reset and CRC_INIT set it to CRC_INIT, CRC_UPDATE folds its byte in, and
nothing else touches it (10_state.md R26; 70_reset_and_hazards.md R200). -/
def accAfterEvent (a : Word) : HostEvent → Word
  | .reset => crcInitValue
  | .request r =>
    match decode r with
    | .crcInit => crcInitValue
    | .crcUpdate b => crc16Byte a b
    | .crcRead => a
    | .crcCompute _ => a
    | .frameEncode _ _ => a
    | .frameDecode _ => a
    | .frameCheck _ => a
    | .reserved _ => a

/-- A frame as FRAME_ENCODE makes them (30_encoding.md R70 to R72; 41_frame_encode.md R121 to R123). -/
structure LegalFrame (p : Params) (f : List Byte) : Prop where
  sync     : f[0]? = some p.syncByte
  addr     : f[1]? = some p.addrByte
  length   : overhead ≤ f.length ∧ f.length ≤ maxFrame
  lenByte  : f[2]?.map BitVec.toNat = some f.length
  checksum : checksumOf f = some (crc16 (f.take (f.length - 2)))
  residue  : crc16 f = 0x0000#16

/-- A decoded frame as FRAME_DECODE gives them: the split of its own raw bytes, within the capacity, and
in strict mode one that passes the strict check (42_frame_decode.md R140, R142). -/
structure LegalDecoded (p : Params) (d : DecodedFrame) : Prop where
  fields : split d.raw = some d
  fits   : d.raw.length ≤ p.rawBufMax
  strict : p.strictDecode = true → strictCheck d.raw = .ok

/-- A response the block may give: a status other than OK comes alone (60_exceptions.md R170), at most
one field beside the status is set (30_encoding.md R74), and what is set is legal. -/
structure LegalResponse (p : Params) (r : Response) : Prop where
  notOk    : r.status ≠ .ok → r = Response.ofStatus r.status
  oneValue : r.value ≠ none → r.bytes = none ∧ r.frame = none
  oneBytes : r.bytes ≠ none → r.value = none ∧ r.frame = none
  frameOk  : ∀ f, r.bytes = some f → LegalFrame p f
  decoded  : ∀ d, r.frame = some d → LegalDecoded p d

/-- The invariant: the parameters meet R21's constraint, and every response given so far is legal. -/
structure State.Inv (s : State) : Prop where
  params    : s.params.wf
  responses : ∀ r ∈ s.responses, LegalResponse s.params r

end Sys2Proof.Machine
end

