-- ==== Sys2Proof/Certificates/Slice0/Obligations.lean ====
section
/-!
DEFINITION. The statements for the provers, from the numbered rules of the spec. `next` states are
written out whole, so a statement of a result is also its completion and its frame: what the record
update does not name is unchanged.
-/

open Sys2Proof Sys2Proof.Machine

/-! ### Reset, the step, the port -/

/-- 10_state.md R27: ACC is 0x0000 after reset, which is CRC_INIT; and from any state whose ACC has that
value a sequence of CRC_UPDATE computes the same CRC with and without a CRC_INIT before it. -/
def Obligations.ResetAccIsCrcInit : Prop :=
  State.reset.acc = 0x0000#16 ∧ State.reset.acc = crcInitValue ∧
  ∀ (s : State) (bs : List Byte), s.acc = State.reset.acc →
    ∃ t u, run bs.length (issue (bs.map .crcUpdate) s) = .next t ∧
      run (bs.length + 1) (issue (.crcInit :: bs.map .crcUpdate) s) = .next u ∧
      t.acc = crc16 bs ∧ u.acc = crc16 bs

/-- A reset event sets ACC to 0x0000 and leaves the parameters alone, as 70_reset_and_hazards.md R200
says; that it also leaves the responses and the rest of the port and gives no response is the model's
choice, log 10 (DEDUCED). -/
def Obligations.ResetEventClearsAccOnly : Prop :=
  ∀ (s : State) (rest : List HostEvent), s.port = .reset :: rest →
    step s = .next { s with acc := 0x0000#16, port := rest }

/-- The model's choice, log 8: with nothing presented a step changes nothing. -/
def Obligations.IdleStepChangesNothing : Prop :=
  ∀ s : State, s.port = [] → step s = .next s

/-- A step with a request at the head of the port is `exec` of the instruction that request decodes to,
with the request taken off the port; the encoding of a well-formed instruction is executed as that
instruction. -/
def Obligations.StepRunsDecodedInstruction : Prop :=
  (∀ (s : State) (r : Request) (rest : List HostEvent), s.port = .request r :: rest →
    (decode r).wf = true ∧ step s = exec (decode r) { s with port := rest }) ∧
  (∀ (s : State) (i : Instr) (rest : List HostEvent), i.wf = true →
    s.port = .request (encode i) :: rest → step s = exec i { s with port := rest })

/-- Over every step, R209 and R55: the event taken is the oldest, a request adds exactly one response at
the end, and nothing already given is lost. For a reset event that is the model's choice, log 10
(DEDUCED); for a step on an empty port, log 8 (DESIGN CHOICE). -/
def Obligations.StepServesOldestEvent : Prop :=
  ∀ s t : State, step s = .next t →
    t.port = s.port.tail ∧
    ∃ new : List Response, t.responses = s.responses ++ new ∧
      new.length = (requestsOf (s.port.take 1)).length

/-! ### Encoding -/

/-- Decoding an encoded well-formed instruction gives it back; every request decodes to a well-formed
instruction; and two requests decode alike exactly when they agree on every field the operation reads. -/
def Obligations.DecodeEncodeAgree : Prop :=
  (∀ i : Instr, i.wf = true → decode (encode i) = i) ∧
  (∀ r : Request, (decode r).wf = true ∧ r.agreesOnRead (encode (decode r))) ∧
  (∀ r r' : Request, r.agreesOnRead r' ↔ decode r = decode r')

/-- 30_encoding.md R77: the operation each opc selects, with the operands it reads, and which opcs may
write ACC. -/
def Obligations.OpcSelectsOperation : Prop :=
  ∀ r : Request,
    (r.opc = 0b00000001#8 → decode r = .crcInit) ∧
    (r.opc = 0b00000010#8 → decode r = .crcUpdate r.b) ∧
    (r.opc = 0b00000011#8 → decode r = .crcRead) ∧
    (r.opc = 0b00000100#8 → decode r = .crcCompute r.buf) ∧
    (r.opc = 0b00000101#8 → decode r = .frameEncode r.cmd r.buf) ∧
    (r.opc = 0b00000110#8 → decode r = .frameDecode r.buf) ∧
    (r.opc = 0b00000111#8 → decode r = .frameCheck r.buf) ∧
    (∀ s t : State, exec (decode r) s = .next t → r.opc ≠ 0b00000001#8 → r.opc ≠ 0b00000010#8 →
      t.acc = s.acc)

/-- 30_encoding.md R78, 60_exceptions.md R176: every opc but 0x01..0x07 is reserved; a request with one
gives ILLEGAL_OPERATION whatever its operand fields hold and changes nothing. -/
def Obligations.ReservedOpcIsIllegalOperation : Prop :=
  (∀ opc : Byte, (opc = 0x00#8 ∨ (0x08#8 ≤ opc ∧ opc ≤ 0xFF#8)) ↔
    opc ∉ [0x01#8, 0x02#8, 0x03#8, 0x04#8, 0x05#8, 0x06#8, 0x07#8]) ∧
  (∀ (opc : Byte) (s : State), exec (.reserved opc) s =
    .next { s with responses := s.responses ++ [⟨.illegalOperation, none, none, none⟩] }) ∧
  (∀ (s : State) (r : Request) (rest : List HostEvent), s.port = .request r :: rest →
    (r.opc = 0x00#8 ∨ 0x08#8 ≤ r.opc) →
    step s = .next { s with
      port := rest
      responses := s.responses ++ [⟨.illegalOperation, none, none, none⟩] })

/-- Words written out from the encodings of 30_encoding.md R77, R78 and R85 decode to what they stand
for. -/
def Obligations.WrittenOutWordsDecode : Prop :=
  decodeTableWord 8 0b00000001 = some .crcInit ∧
  decodeTableWord 8 0b00000011 = some .crcRead ∧
  decodeTableWord 8 0b00000000 = some (.reserved 0x00#8) ∧
  decodeTableWord 8 0b00001000 = some (.reserved 0x08#8) ∧
  decodeTableWord 8 0b11111111 = some (.reserved 0xFF#8) ∧
  decode ⟨0b00000010#8, 0x80#8, 0x11#8, [0x22#8]⟩ = .crcUpdate 0x80#8 ∧
  decode ⟨0b00000101#8, 0x44#8, 0x33#8, [0x00#8, 0x01#8]⟩ = .frameEncode 0x33#8 [0x00#8, 0x01#8] ∧
  decode ⟨0b00000110#8, 0x44#8, 0x33#8, [0x02#8]⟩ = .frameDecode [0x02#8]

/-- 30_encoding.md R73, R79: the fields an operation does not read change nothing about the step. -/
def Obligations.UnreadFieldsAreIgnored : Prop :=
  ∀ (s : State) (r r' : Request) (rest : List HostEvent), r.opc = r'.opc →
    (r.opc = 0x02#8 → r.b = r'.b) →
    (r.opc = 0x05#8 → r.cmd = r'.cmd) →
    (r.opc = 0x04#8 ∨ r.opc = 0x05#8 ∨ r.opc = 0x06#8 ∨ r.opc = 0x07#8 → r.buf = r'.buf) →
    step { s with port := .request r :: rest } = step { s with port := .request r' :: rest }

/-- 30_encoding.md R76: the codes, all below 0x07, and which operation can raise each status. -/
def Obligations.StatusCodesAndRaisers : Prop :=
  Status.ok.code = 0x00#8 ∧ Status.shortFrame.code = 0x01#8 ∧ Status.frameTooLarge.code = 0x02#8 ∧
  Status.noChecksum.code = 0x03#8 ∧ Status.lengthMismatch.code = 0x04#8 ∧
  Status.checksumMismatch.code = 0x05#8 ∧ Status.illegalOperation.code = 0x06#8 ∧
  (∀ st : Status, st.code < 0x07#8) ∧
  ∀ (i : Instr) (s t : State), exec i s = .next t →
    ∃ r, t.responses = s.responses ++ [r] ∧
      (r.status = .shortFrame →
        ∃ buf : List Byte, buf.length < 4 ∧ (i = .frameDecode buf ∨ i = .frameCheck buf)) ∧
      (r.status = .frameTooLarge → ∃ cmd buf, i = .frameEncode cmd buf ∧ 249 < buf.length) ∧
      (r.status = .noChecksum ∨ r.status = .lengthMismatch ∨ r.status = .checksumMismatch →
        ∃ buf : List Byte, 4 ≤ buf.length ∧
          (i = .frameCheck buf ∨ (i = .frameDecode buf ∧ s.params.strictDecode = true))) ∧
      (r.status = .illegalOperation → ∃ opc, i = .reserved opc)

/-- 30_encoding.md R74: which operation sets which field of its response; every other field is none. -/
def Obligations.ResponseFieldsByOperation : Prop :=
  ∀ (i : Instr) (s t : State), exec i s = .next t →
    ∃ r, t.responses = s.responses ++ [r] ∧
      (r.value ≠ none → i = .crcRead ∨ ∃ buf, i = .crcCompute buf) ∧
      (r.bytes ≠ none → ∃ cmd buf, i = .frameEncode cmd buf) ∧
      (r.frame ≠ none → ∃ buf, i = .frameDecode buf)

/-- 30_encoding.md R86: the pseudo-instructions. `CRC.STREAM bs`, presented and run, answers OK to each
of its requests and leaves the CRC of the bytes in ACC; `ENC.<C> data` is FRAME.ENCODE with the
command's byte. -/
def Obligations.PseudoInstructionsExpand : Prop :=
  (∀ (codes : CommandCodes) (c : Command) (data : List Byte),
    Pseudo.expand codes (.enc c data) = [.frameEncode (codes.code c) data]) ∧
  (∀ codes : CommandCodes, Pseudo.expand codes (.crcStream []) = [.crcInit]) ∧
  (∀ (codes : CommandCodes) (b : Byte) (bs : List Byte),
    Pseudo.expand codes (.crcStream (bs ++ [b])) =
      Pseudo.expand codes (.crcStream bs) ++ [.crcUpdate b]) ∧
  (∀ (codes : CommandCodes) (bs : List Byte) (s : State),
    run (bs.length + 1) (issue (Pseudo.expand codes (.crcStream bs)) s) =
      .next { s with
        acc := crc16 bs
        responses := s.responses ++ List.replicate (bs.length + 1) ⟨.ok, none, none, none⟩ })

/-! ### The CRC engine -/

/-- 40_crc.md R102: CRC_INIT, and its corner cases. -/
def Obligations.CrcInitSetsAccToZero : Prop :=
  (∀ s : State, exec .crcInit s =
    .next { s with acc := 0x0000#16, responses := s.responses ++ [⟨.ok, none, none, none⟩] }) ∧
  (∀ s t u : State, exec .crcInit s = .next t → exec .crcInit t = .next u → u.acc = t.acc) ∧
  (∀ t : State, exec .crcInit State.reset = .next t → t.acc = State.reset.acc)

/-- 40_crc.md R103: CRC_UPDATE for every byte, and its corner cases. -/
def Obligations.CrcUpdateFoldsOneByte : Prop :=
  (∀ (s : State) (b : Byte), exec (.crcUpdate b) s =
    .next { s with
      acc := crc16Byte s.acc b
      responses := s.responses ++ [⟨.ok, none, none, none⟩] }) ∧
  crc16Byte 0x0000#16 0x00#8 = 0x0000#16 ∧
  (∀ a : Word, crc16Byte a (a.extractLsb' 0 8) = (a.extractLsb' 8 8).setWidth 16) ∧
  crc16Byte 0x0000#16 0x80#8 = poly ∧
  crc16Byte 0x0000#16 0xFF#8 = 0x0F78#16 ∧
  crc16Byte 0x0000#16 0x02#8 = 0x2312#16

/-- 40_crc.md R104: CRC_READ returns ACC and changes nothing; the value's bytes are checksum_lo and
checksum_hi; the corner case after reset and the example. -/
def Obligations.CrcReadReturnsAcc : Prop :=
  (∀ s : State, exec .crcRead s =
    .next { s with responses := s.responses ++ [⟨.ok, some s.acc, none, none⟩] }) ∧
  (∀ v : Word, joinBytes (v.extractLsb' 0 8) (v.extractLsb' 8 8) = v) ∧
  (∀ t : State, exec .crcRead State.reset = .next t →
    t.responses = [⟨.ok, some 0x0000#16, none, none⟩]) ∧
  crc16 [0x02#8, 0x03#8, 0x06#8, 0x33#8] = 0x81DA#16 ∧
  (0x81DA#16).extractLsb' 0 8 = 0xDA#8 ∧ (0x81DA#16).extractLsb' 8 8 = 0x81#8

/-- 40_crc.md R105: CRC_COMPUTE within the capacity and beyond it, and its corner cases. -/
def Obligations.CrcComputeReturnsCrc : Prop :=
  (∀ (s : State) (buf : List Byte), buf.length ≤ s.params.rawBufMax →
    exec (.crcCompute buf) s =
      .next { s with responses := s.responses ++ [⟨.ok, some (crc16 buf), none, none⟩] }) ∧
  (∀ (s : State) (buf : List Byte), s.params.rawBufMax < buf.length →
    exec (.crcCompute buf) s = .refused .inputBeyondCapacity) ∧
  crc16 [] = 0x0000#16 ∧
  (∀ buf : List Byte, crc16 (0x00#8 :: buf) = crc16 buf) ∧
  (∀ buf : List Byte,
    crc16 (buf ++ [(crc16 buf).extractLsb' 0 8, (crc16 buf).extractLsb' 8 8]) = 0x0000#16) ∧
  crc16 [0x31#8, 0x32#8, 0x33#8, 0x34#8, 0x35#8, 0x36#8, 0x37#8, 0x38#8, 0x39#8] = 0x2189#16

/-- 40_crc.md R100, read over the natural numbers: XOR the byte's number into the accumulator's, then
eight times halve, with XOR 0x8408 where the number was odd. No step leaves 16 bits. -/
def Obligations.CrcByteIsEightHalvings : Prop :=
  ∀ (acc : Word) (b : Byte),
    (crc16Byte acc b).toNat =
      (List.range 8).foldl
        (fun a _ => if a % 2 = 1 then (a / 2) ^^^ 0x8408 else a / 2)
        (acc.toNat ^^^ b.toNat)

/-- 40_crc.md R101: the CRC of a sequence folds `s[i]` for i = 0 .. len(s)-1 from 0x0000. -/
def Obligations.CrcFoldsBytesInIndexOrder : Prop :=
  ∀ s : List Byte,
    crc16 s = (List.finRange s.length).foldl (fun a i => crc16Byte a s[i]) 0x0000#16

/-- 40_crc.md R106: CRC.INIT, an update for each byte and CRC.READ, run from any state, return the
one-shot CRC; from any accumulator value the updates fold on from it; and a CRC splits at any point. -/
def Obligations.StreamingEqualsOneShot : Prop :=
  (∀ (st : State) (s : List Byte),
    run (s.length + 2) (issue ([.crcInit] ++ s.map .crcUpdate ++ [.crcRead]) st) =
      .next { st with
        acc := crc16 s
        responses := st.responses ++ List.replicate (s.length + 1) ⟨.ok, none, none, none⟩ ++
          [⟨.ok, some (crc16 s), none, none⟩] }) ∧
  (∀ (st : State) (t : List Byte),
    run t.length (issue (t.map .crcUpdate) st) =
      .next { st with
        acc := t.foldl crc16Byte st.acc
        responses := st.responses ++ List.replicate t.length ⟨.ok, none, none, none⟩ }) ∧
  (∀ s t : List Byte, crc16 (s ++ t) = t.foldl crc16Byte (crc16 s))

/-- 40_crc.md R107: zero bytes at the start are invisible. -/
def Obligations.LeadingZeroBytesInvisible : Prop :=
  crc16Byte 0x0000#16 0x00#8 = 0x0000#16 ∧
  ∀ (k : Nat) (s : List Byte), crc16 (List.replicate k 0x00#8 ++ s) = crc16 s

/-- 40_crc.md R108: residue zero, for every sequence and for every frame FRAME_ENCODE answers. -/
def Obligations.ResidueIsZero : Prop :=
  (∀ (s : List Byte) (c : Word), c = crc16 s →
    crc16 (s ++ [c.extractLsb' 0 8, c.extractLsb' 8 8]) = 0x0000#16) ∧
  (∀ (s t : State) (cmd : Byte) (buf f : List Byte), exec (.frameEncode cmd buf) s = .next t →
    t.responses = s.responses ++ [⟨.ok, none, some f, none⟩] → crc16 f = 0x0000#16)

/-- 40_crc.md R109: crc16 is linear over bytewise XOR of sequences of equal length. -/
def Obligations.CrcIsLinear : Prop :=
  ∀ s t : List Byte, s.length = t.length →
    crc16 (List.zipWith (· ^^^ ·) s t) = crc16 s ^^^ crc16 t

/-- 40_crc.md R110: the single-byte CRCs are pairwise distinct, and those of the single-bit bytes. -/
def Obligations.SingleByteCrcsDistinct : Prop :=
  (∀ b b' : Byte, crc16Byte 0x0000#16 b = crc16Byte 0x0000#16 b' → b = b') ∧
  [0x01#8, 0x02#8, 0x04#8, 0x08#8, 0x10#8, 0x20#8, 0x40#8, 0x80#8].map (crc16Byte 0x0000#16) =
    [0x1189#16, 0x2312#16, 0x4624#16, 0x8C48#16, 0x1081#16, 0x2102#16, 0x4204#16, 0x8408#16]

/-- 42_frame_decode.md R149: for an input of six or more bytes the comparison of the embedded checksum
with the CRC of the covered bytes holds exactly when the CRC of the whole input is 0x0000. -/
def Obligations.ChecksumHoldsIffResidueZero : Prop :=
  ∀ (raw covered : List Byte) (lo hi : Byte), raw = covered ++ [lo, hi] → 6 ≤ raw.length →
    (some (crc16 (raw.take (raw.length - 2))) = checksumOf raw ↔ crc16 raw = 0x0000#16) ∧
    (crc16 covered = lo.setWidth 16 ||| (hi.setWidth 16 <<< 8) ↔ crc16 raw = 0x0000#16)

/-! ### The frame encoder -/

/-- 41_frame_encode.md R120: FRAME_ENCODE in each of its three outcomes. -/
def Obligations.FrameEncodeBuildsFrame : Prop :=
  ∀ (s : State) (cmd : Byte) (buf : List Byte),
    (s.params.rawBufMax < buf.length →
      exec (.frameEncode cmd buf) s = .refused .inputBeyondCapacity) ∧
    (buf.length ≤ s.params.rawBufMax → 249 < buf.length →
      exec (.frameEncode cmd buf) s =
        .next { s with responses := s.responses ++ [⟨.frameTooLarge, none, none, none⟩] }) ∧
    (buf.length ≤ s.params.rawBufMax → buf.length ≤ 249 →
      ∃ (body : List Byte) (c : Word),
        body = [s.params.syncByte, s.params.addrByte, BitVec.ofNat 8 (buf.length + 6), cmd] ++ buf ∧
        body.length = buf.length + 4 ∧ c = crc16 body ∧
        exec (.frameEncode cmd buf) s =
          .next { s with
            responses := s.responses ++
              [⟨.ok, none, some (body ++ [c.extractLsb' 0 8, c.extractLsb' 8 8]), none⟩] })

/-- 41_frame_encode.md R121: for every data sequence of at most 249 bytes FRAME_ENCODE answers a frame
whose length byte is len(buf) + 6, which is the length of the frame. `wf` is R21's constraint. -/
def Obligations.FrameLengthByteIsFrameLength : Prop :=
  ∀ (s : State) (cmd : Byte) (buf : List Byte), s.params.wf → buf.length ≤ 249 →
    ∃ f : List Byte, exec (.frameEncode cmd buf) s =
        .next { s with responses := s.responses ++ [⟨.ok, none, some f, none⟩] } ∧
      f[2]?.map BitVec.toNat = some (buf.length + 6) ∧ f.length = buf.length + 6

/-- 41_frame_encode.md R122: the checksum round trip of every frame FRAME_ENCODE answers, its residue,
and FRAME_CHECK's verdict on it in the state that follows. -/
def Obligations.FrameChecksumRoundTrip : Prop :=
  ∀ (s t : State) (cmd : Byte) (buf f : List Byte), s.params.wf →
    exec (.frameEncode cmd buf) s = .next t →
    t.responses = s.responses ++ [⟨.ok, none, some f, none⟩] →
    (∃ lo hi : Byte, f[f.length - 2]? = some lo ∧ f[f.length - 1]? = some hi ∧
      crc16 (f.take (f.length - 2)) = lo.setWidth 16 ||| (hi.setWidth 16 <<< 8)) ∧
    crc16 f = 0x0000#16 ∧
    exec (.frameCheck f) t =
      .next { t with responses := t.responses ++ [⟨.ok, none, none, none⟩] }

/-- 41_frame_encode.md R123: the fixed fields and the data of every frame FRAME_ENCODE answers. -/
def Obligations.FrameFixedFieldsAndData : Prop :=
  ∀ (s t : State) (cmd : Byte) (buf f : List Byte), exec (.frameEncode cmd buf) s = .next t →
    t.responses = s.responses ++ [⟨.ok, none, some f, none⟩] →
    f[0]? = some s.params.syncByte ∧ f[1]? = some s.params.addrByte ∧ f[3]? = some cmd ∧
      (f.take (f.length - 2)).drop 4 = buf

/-- 41_frame_encode.md R124: the response of FRAME_ENCODE is a function of cmd, buf, SYNC_BYTE and
ADDR_BYTE alone. -/
def Obligations.EncodeDependsOnlyOnInputs : Prop :=
  ∀ (s s' t t' : State) (cmd : Byte) (buf : List Byte),
    s.params.syncByte = s'.params.syncByte → s.params.addrByte = s'.params.addrByte →
    exec (.frameEncode cmd buf) s = .next t → exec (.frameEncode cmd buf) s' = .next t' →
    ∃ r, t.responses = s.responses ++ [r] ∧ t'.responses = s'.responses ++ [r]

/-! ### The frame decoder and validator -/

/-- 42_frame_decode.md R140, R141: the split of an input of four or more bytes, field by field and by
position. -/
def Obligations.SplitReadsFieldsByPosition : Prop :=
  ∀ raw : List Byte, 4 ≤ raw.length →
    ∃ d : DecodedFrame, split raw = some d ∧ d.raw = raw ∧
      raw[0]? = some d.sync ∧ raw[1]? = some d.addr ∧ raw[2]? = some d.len ∧ raw[3]? = some d.cmd ∧
      (6 ≤ raw.length →
        d.data.length = raw.length - 6 ∧
        (∀ i, i < raw.length - 6 → d.data[i]? = raw[4 + i]?) ∧
        ∃ lo hi : Byte, raw[raw.length - 2]? = some lo ∧ raw[raw.length - 1]? = some hi ∧
          d.checksum = some (lo.setWidth 16 ||| (hi.setWidth 16 <<< 8))) ∧
      (raw.length < 6 → d.data = raw.drop 4 ∧ d.checksum = none)

/-- 42_frame_decode.md R142: FRAME_DECODE in each of its outcomes, in both modes. -/
def Obligations.FrameDecodeOutcomes : Prop :=
  ∀ (s : State) (buf : List Byte),
    (s.params.rawBufMax < buf.length →
      exec (.frameDecode buf) s = .refused .inputBeyondCapacity) ∧
    (buf.length ≤ s.params.rawBufMax → buf.length < 4 →
      exec (.frameDecode buf) s =
        .next { s with responses := s.responses ++ [⟨.shortFrame, none, none, none⟩] }) ∧
    (buf.length ≤ s.params.rawBufMax → 4 ≤ buf.length →
      s.params.strictDecode = true → strictCheck buf ≠ .ok →
      exec (.frameDecode buf) s =
        .next { s with responses := s.responses ++ [⟨strictCheck buf, none, none, none⟩] }) ∧
    (buf.length ≤ s.params.rawBufMax → 4 ≤ buf.length →
      (s.params.strictDecode = true → strictCheck buf = .ok) →
      ∃ d, split buf = some d ∧ exec (.frameDecode buf) s =
        .next { s with responses := s.responses ++ [⟨.ok, none, none, some d⟩] })

/-- 42_frame_decode.md R143, R144: FRAME_CHECK's verdict, check by check, in both modes. -/
def Obligations.FrameCheckVerdict : Prop :=
  ∀ (s : State) (raw : List Byte),
    (s.params.rawBufMax < raw.length →
      exec (.frameCheck raw) s = .refused .inputBeyondCapacity) ∧
    (raw.length ≤ s.params.rawBufMax →
      ∃ st : Status, exec (.frameCheck raw) s =
          .next { s with responses := s.responses ++ [⟨st, none, none, none⟩] } ∧
        st = strictCheck raw ∧
        (raw.length < 4 → st = .shortFrame) ∧
        (raw.length = 4 ∨ raw.length = 5 → st = .noChecksum) ∧
        (∀ (hdr : List Byte) (len : Byte) (mid : List Byte) (lo hi : Byte),
          raw = hdr ++ [len] ++ mid ++ [lo, hi] → hdr.length = 2 → 1 ≤ mid.length →
          (len.toNat ≠ raw.length → st = .lengthMismatch) ∧
          (len.toNat = raw.length →
            crc16 (hdr ++ [len] ++ mid) ≠ lo.setWidth 16 ||| (hi.setWidth 16 <<< 8) →
            st = .checksumMismatch) ∧
          (len.toNat = raw.length →
            crc16 (hdr ++ [len] ++ mid) = lo.setWidth 16 ||| (hi.setWidth 16 <<< 8) → st = .ok)))

/-- 42_frame_decode.md R145: lenient decode is total up to the capacity. -/
def Obligations.LenientDecodeIsTotal : Prop :=
  ∀ (s : State) (buf : List Byte), s.params.strictDecode = false →
    buf.length ≤ s.params.rawBufMax →
    (buf.length < 4 → exec (.frameDecode buf) s =
      .next { s with responses := s.responses ++ [⟨.shortFrame, none, none, none⟩] }) ∧
    (4 ≤ buf.length → ∃ d, split buf = some d ∧ exec (.frameDecode buf) s =
      .next { s with responses := s.responses ++ [⟨.ok, none, none, some d⟩] })

/-- 42_frame_decode.md R146: FRAME_DECODE and FRAME_CHECK after FRAME_ENCODE, in either mode: one run of
the three requests from any state whose parameters meet R21. -/
def Obligations.DecodeAfterEncode : Prop :=
  ∀ (s : State) (cmd : Byte) (d : List Byte), s.params.wf → d.length ≤ 249 →
    ∃ f : List Byte,
      run 3 (issue [.frameEncode cmd d, .frameDecode f, .frameCheck f] s) =
        .next { s with
          responses := s.responses ++
            [ ⟨.ok, none, some f, none⟩,
              ⟨.ok, none, none, some
                { raw := f
                  sync := s.params.syncByte
                  addr := s.params.addrByte
                  len := BitVec.ofNat 8 (d.length + 6)
                  cmd := cmd
                  data := d
                  checksum := some (crc16 (f.take (f.length - 2))) }⟩,
              ⟨.ok, none, none, none⟩ ] }

/-- 42_frame_decode.md R147, 60_exceptions.md R171: short inputs give SHORT_FRAME in both modes and from
FRAME_CHECK, with no frame, and change no other state. `wf` is R21's constraint. -/
def Obligations.ShortFramesTolerated : Prop :=
  ∀ (s : State) (buf : List Byte), s.params.wf → buf.length < 4 →
    exec (.frameDecode buf) s =
      .next { s with responses := s.responses ++ [⟨.shortFrame, none, none, none⟩] } ∧
    exec (.frameCheck buf) s =
      .next { s with responses := s.responses ++ [⟨.shortFrame, none, none, none⟩] }

/-- 42_frame_decode.md R148: in lenient mode an input of four or more bytes, with any length byte and any
checksum, decodes with OK, and its fields put together again are exactly the bytes received. -/
def Obligations.LenientDecodePassesBytesThrough : Prop :=
  ∀ (s : State) (buf : List Byte), s.params.strictDecode = false →
    buf.length ≤ s.params.rawBufMax → 4 ≤ buf.length →
    ∃ d : DecodedFrame, exec (.frameDecode buf) s =
        .next { s with responses := s.responses ++ [⟨.ok, none, none, some d⟩] } ∧
      d.raw = buf ∧ (d.checksum = none ↔ buf.length < 6) ∧
      [d.sync, d.addr, d.len, d.cmd] ++ d.data ++
        (match d.checksum with
         | some c => [c.extractLsb' 0 8, c.extractLsb' 8 8]
         | none => []) = buf

/-- 42_frame_decode.md R150: the responses of FRAME_DECODE and FRAME_CHECK are functions of buf,
STRICT_DECODE (FRAME_DECODE only) and RAW_BUF_MAX alone. -/
def Obligations.DecoderDependsOnlyOnInputs : Prop :=
  ∀ (s s' : State) (buf : List Byte), s.params.rawBufMax = s'.params.rawBufMax →
    (s.params.strictDecode = s'.params.strictDecode →
      (exec (.frameDecode buf) s = .refused .inputBeyondCapacity ∧
        exec (.frameDecode buf) s' = .refused .inputBeyondCapacity) ∨
      ∃ (r : Response) (t t' : State), exec (.frameDecode buf) s = .next t ∧
        exec (.frameDecode buf) s' = .next t' ∧
        t.responses = s.responses ++ [r] ∧ t'.responses = s'.responses ++ [r]) ∧
    ((exec (.frameCheck buf) s = .refused .inputBeyondCapacity ∧
        exec (.frameCheck buf) s' = .refused .inputBeyondCapacity) ∨
      ∃ (r : Response) (t t' : State), exec (.frameCheck buf) s = .next t ∧
        exec (.frameCheck buf) s' = .next t' ∧
        t.responses = s.responses ++ [r] ∧ t'.responses = s'.responses ++ [r])

/-! ### Conditions, refusal, ACC, whole-machine rules -/

/-- 60_exceptions.md R170: an operation that ends with a status other than OK changes nothing but that
its response, which carries the status alone, is given; the next request is served normally. -/
def Obligations.NonOkStatusWritesNothing : Prop :=
  ∀ (i : Instr) (s t : State) (r : Response), exec i s = .next t →
    t.responses = s.responses ++ [r] → r.status ≠ .ok →
    r = ⟨r.status, none, none, none⟩ ∧ t = { s with responses := s.responses ++ [r] } ∧
    ∀ (q : Request) (rest : List HostEvent), t.port = .request q :: rest →
      step t = exec (decode q) { t with port := rest }

/-- 60_exceptions.md R177: the one status of every request, from the first check that applies. -/
def Obligations.FirstApplicableCheckDecides : Prop :=
  ∀ (s : State) (r : Request) (rest : List HostEvent), s.port = .request r :: rest →
    let answer (st : Status) : Result :=
      .next { s with port := rest, responses := s.responses ++ [⟨st, none, none, none⟩] }
    let n := r.buf.length
    let strictly := (r.opc = 0x06#8 ∧ s.params.strictDecode = true) ∨ r.opc = 0x07#8
    if r.opc = 0x00#8 ∨ 0x08#8 ≤ r.opc then step s = answer .illegalOperation
    else if 0x04#8 ≤ r.opc ∧ s.params.rawBufMax < n then step s = .refused .inputBeyondCapacity
    else if r.opc = 0x05#8 ∧ 249 < n then step s = answer .frameTooLarge
    else if (r.opc = 0x06#8 ∨ r.opc = 0x07#8) ∧ n < 4 then step s = answer .shortFrame
    else if strictly ∧ (n = 4 ∨ n = 5) then step s = answer .noChecksum
    else if strictly ∧ r.buf[2]?.map BitVec.toNat ≠ some n then step s = answer .lengthMismatch
    else if strictly ∧ some (crc16 (r.buf.take (n - 2))) ≠ checksumOf r.buf then
      step s = answer .checksumMismatch
    else ∃ (t : State) (p : Response), step s = .next t ∧
      t.responses = s.responses ++ [p] ∧ p.status = .ok

/-- 60_exceptions.md R178: a step is refused exactly when the request served has a `buf` operand longer
than RAW_BUF_MAX, under the one name; the refusal holds for the whole run; and no step faults. -/
def Obligations.RefusedExactlyBeyondCapacity : Prop :=
  ∀ s : State,
    (∀ why : Refusal, step s = .refused why ↔
      why = .inputBeyondCapacity ∧ ∃ (r : Request) (rest : List HostEvent),
        s.port = .request r :: rest ∧
        (r.opc = 0x04#8 ∨ r.opc = 0x05#8 ∨ r.opc = 0x06#8 ∨ r.opc = 0x07#8) ∧
        s.params.rawBufMax < r.buf.length) ∧
    (∀ (why : Refusal) (n : Nat), step s = .refused why → run (n + 1) s = .refused why) ∧
    ∀ f : Fault, step s ≠ .fault f

/-- 10_state.md R33, R34: CRC_COMPUTE, FRAME_ENCODE, FRAME_DECODE and FRAME_CHECK leave ACC alone and
leave no state behind, and in two states with equal parameters they give equal responses, whatever ACC
holds and whatever ran before. -/
def Obligations.OneShotOperationsLeaveNoState : Prop :=
  ∀ (i : Instr), bufOperand i ≠ none →
    (∀ s t : State, exec i s = .next t → ∃ r, t = { s with responses := s.responses ++ [r] }) ∧
    (∀ s s' t t' : State, s.params = s'.params → exec i s = .next t → exec i s' = .next t' →
      ∃ r, t.responses = s.responses ++ [r] ∧ t'.responses = s'.responses ++ [r])

/-- 10_state.md R26: CRC_INIT and CRC_UPDATE are the only operations that write ACC; CRC_UPDATE and
CRC_READ are the only ones that read it. -/
def Obligations.OnlyStreamingOperationsTouchAcc : Prop :=
  (∀ (i : Instr) (s t : State), exec i s = .next t →
    i ≠ .crcInit → (∀ b, i ≠ .crcUpdate b) → t.acc = s.acc) ∧
  (∀ (i : Instr) (s t : State) (a : Word), exec i s = .next t →
    i ≠ .crcRead → (∀ b, i ≠ .crcUpdate b) →
    ∃ u : State, exec i { s with acc := a } = .next u ∧ u.responses = t.responses ∧
      u.acc = if i = .crcInit then t.acc else a)

/-- 10_state.md R31, 70_reset_and_hazards.md R205: no step of any run changes a parameter. -/
def Obligations.ParametersAreFixed : Prop :=
  ∀ (n : Nat) (s t : State), run n s = .next t → t.params = s.params

/-- 00_scope.md R19: the block never reads CMD_CODE: with another table in its place the step is the
same. -/
def Obligations.CommandTableIsNeverRead : Prop :=
  ∀ (s : State) (codes : CommandCodes),
    (∀ t : State, step s = .next t →
      step { s with params := { s.params with cmdCode := codes } } =
        .next { t with params := { t.params with cmdCode := codes } }) ∧
    (∀ why : Refusal, step s = .refused why →
      step { s with params := { s.params with cmdCode := codes } } = .refused why)

/-- 20_memory.md R52: issued twice in a row, every operation but CRC_UPDATE gives the same response twice
and the same final state but for the list of responses; CRC_UPDATE does not. -/
def Obligations.AllButUpdateIdempotent : Prop :=
  (∀ (i : Instr) (s t : State), (∀ b, i ≠ .crcUpdate b) → exec i s = .next t →
    ∃ r, t.responses = s.responses ++ [r] ∧
      exec i t = .next { t with responses := s.responses ++ [r, r] }) ∧
  (∃ (b : Byte) (s t u : State), exec (.crcUpdate b) s = .next t ∧ exec (.crcUpdate b) t = .next u ∧
    u.acc ≠ t.acc)

/-- 60_exceptions.md R187: two requests commute when neither is CRC_INIT or CRC_UPDATE: either order
gives each the same response and leaves the same final state. -/
def Obligations.NonUpdatingRequestsCommute : Prop :=
  ∀ (i j : Instr) (s t u : State),
    i ≠ .crcInit → (∀ b, i ≠ .crcUpdate b) → j ≠ .crcInit → (∀ b, j ≠ .crcUpdate b) →
    exec i s = .next t → exec j t = .next u →
    ∃ (ri rj : Response) (t' u' : State),
      t.responses = s.responses ++ [ri] ∧ u.responses = s.responses ++ [ri, rj] ∧
      exec j s = .next t' ∧ exec i t' = .next u' ∧
      t'.responses = s.responses ++ [rj] ∧ u'.responses = s.responses ++ [rj, ri] ∧
      u'.acc = u.acc ∧ u'.port = u.port ∧ u'.params = u.params

/-- 70_reset_and_hazards.md R204: a CRC_READ straight after a CRC_UPDATE reads the updated ACC. -/
def Obligations.ReadSeesUpdateBeforeIt : Prop :=
  ∀ (s : State) (b : Byte),
    run 2 (issue [.crcUpdate b, .crcRead] s) =
      .next { s with
        acc := crc16Byte s.acc b
        responses := s.responses ++
          [⟨.ok, none, none, none⟩, ⟨.ok, some (crc16Byte s.acc b), none, none⟩] }

/-- 70_reset_and_hazards.md R203: ACC is shared. When updates `ys` of another computation are accepted
inside the stream of `xs ++ zs`, the CRC_READ returns the CRC of the merged stream; when the other
computation begins with its own CRC_INIT, that of `ys ++ zs`. -/
def Obligations.InterleavedStreamsMerge : Prop :=
  ∀ (s : State) (xs ys zs : List Byte),
    (∃ t : State,
      run (xs.length + ys.length + zs.length + 2)
        (issue ([.crcInit] ++ xs.map .crcUpdate ++ ys.map .crcUpdate ++ zs.map .crcUpdate ++ [.crcRead]) s)
          = .next t ∧
      t.responses.getLast? = some ⟨.ok, some (crc16 (xs ++ ys ++ zs)), none, none⟩) ∧
    (∃ t : State,
      run (xs.length + ys.length + zs.length + 3)
        (issue ([.crcInit] ++ xs.map .crcUpdate ++ [.crcInit] ++ ys.map .crcUpdate ++
          zs.map .crcUpdate ++ [.crcRead]) s) = .next t ∧
      t.responses.getLast? = some ⟨.ok, some (crc16 (ys ++ zs)), none, none⟩)

/-- 10_state.md R26 and 70_reset_and_hazards.md R200 over whole runs: after any run that is not refused,
ACC is what the events taken make of it in order, CRC_INIT, CRC_UPDATE and reset alone having touched
it. That the events after a reset event are still served is the model's choice, log 10 (DEDUCED); that
steps beyond the port's events leave ACC is the model's choice, log 8 (DESIGN CHOICE). -/
def Obligations.AccFollowsEventsTaken : Prop :=
  ∀ (n : Nat) (s t : State), run n s = .next t →
    t.acc = (s.port.take n).foldl accAfterEvent s.acc

/-- 70_reset_and_hazards.md R208, R209: when every request presented fits the capacity, the run serves
them all in as many steps as there are events, and each request has exactly one response. That requests
after a reset event are still answered, and that the event itself gives no response and keeps those
given, is the model's choice, log 10 (DEDUCED). -/
def Obligations.EveryRequestAnsweredOnce : Prop :=
  ∀ s : State, PortFitsCapacity s →
    ∃ t : State, run s.port.length s = .next t ∧ t.port = [] ∧
      ∃ new : List Response, t.responses = s.responses ++ new ∧
        new.length = (requestsOf s.port).length

/-! ### The invariant -/

/-- The state after reset meets the invariant. Rests on the model's RAW_BUF_MAX of log 2. -/
def Obligations.ResetMeetsInvariant : Prop := State.reset.Inv

/-- Every step from a state that meets the invariant leaves one that does: the parameters keep R21's
constraint, a status other than OK comes alone, every frame given is a legal frame with residue zero,
and every decoded frame is the split of its raw bytes, strictly checked in strict mode. -/
def Obligations.StepKeepsInvariant : Prop :=
  ∀ s t : State, s.Inv → step s = .next t → t.Inv
end

