-- ==== Sys2Proof/Laws/Crc.lean ====
section
/-!
SUPPORT. The small lemmas of the CRC functions and of the checksum's byte order.
-/

namespace Sys2Proof.Machine

/-- Folding no byte. -/
theorem crcFold_nil (a : Word) : crcFold a [] = a := rfl

/-- Folding one byte and then the rest. -/
theorem crcFold_cons (a : Word) (b : Byte) (s : List Byte) :
    crcFold a (b :: s) = crcFold (crc16Byte a b) s := rfl

/-- Folding a sequence and then another. -/
theorem crcFold_append (a : Word) (s t : List Byte) :
    crcFold a (s ++ t) = crcFold (crcFold a s) t := List.foldl_append

/-- One iteration of R100, on its own. -/
def crcShift (a : Word) : Word := if a.getLsbD 0 then (a >>> 1) ^^^ poly else a >>> 1

/-- No iteration left. -/
theorem crcShifts_zero (a : Word) : crcShifts 0 a = a := rfl

/-- One iteration, and then the others. -/
theorem crcShifts_succ (k : Nat) (a : Word) : crcShifts (k + 1) a = crcShifts k (crcShift a) := by
  simp only [crcShifts, crcShift]
  split <;> rfl

/-- An iteration on an accumulator whose low bit is clear only shifts. -/
theorem crcShift_of_even {a : Word} (h : a.getLsbD 0 = false) : crcShift a = a >>> 1 := by
  simp only [crcShift, h]; rfl

/-- An iteration on an accumulator whose low bit is set shifts and takes in POLY. -/
theorem crcShift_of_odd {a : Word} (h : a.getLsbD 0 = true) : crcShift a = (a >>> 1) ^^^ poly := by
  simp only [crcShift, h]; rfl

/-- Iterations add up. -/
theorem crcShifts_add (m n : Nat) (a : Word) : crcShifts (m + n) a = crcShifts n (crcShifts m a) := by
  induction m generalizing a with
  | zero => simp only [Nat.zero_add, crcShifts_zero]
  | succ m ih => simp only [Nat.succ_add, crcShifts_succ, ih]

end Sys2Proof.Machine
end

