-- ==== Sys2Proof/Laws/State.lean ====
section
/-!
SUPPORT. One lemma per field per update of State, so that no later proof unfolds an update.
-/

namespace Sys2Proof.Machine

variable (s : State) (v : Word) (r : Response) (rs : List Request)

@[simp] theorem readAcc_eq : readAcc s = s.acc := rfl

@[simp] theorem writeAcc_acc : (writeAcc v s).acc = v := rfl
@[simp] theorem writeAcc_responses : (writeAcc v s).responses = s.responses := rfl
@[simp] theorem writeAcc_port : (writeAcc v s).port = s.port := rfl
@[simp] theorem writeAcc_params : (writeAcc v s).params = s.params := rfl

@[simp] theorem pushResponse_acc : (pushResponse r s).acc = s.acc := rfl
@[simp] theorem pushResponse_responses : (pushResponse r s).responses = s.responses ++ [r] := rfl
@[simp] theorem pushResponse_port : (pushResponse r s).port = s.port := rfl
@[simp] theorem pushResponse_params : (pushResponse r s).params = s.params := rfl

@[simp] theorem resetBlock_acc : (resetBlock s).acc = 0x0000#16 := rfl
@[simp] theorem resetBlock_responses : (resetBlock s).responses = s.responses := rfl
@[simp] theorem resetBlock_port : (resetBlock s).port = s.port := rfl
@[simp] theorem resetBlock_params : (resetBlock s).params = s.params := rfl

@[simp] theorem present_acc : (present rs s).acc = s.acc := rfl
@[simp] theorem present_responses : (present rs s).responses = s.responses := rfl
@[simp] theorem present_port : (present rs s).port = rs.map .request ++ s.port := rfl
@[simp] theorem present_params : (present rs s).params = s.params := rfl

/-- Two states with the same four fields are the same state. -/
theorem State.eq_of_fields {s t : State} (hacc : s.acc = t.acc) (hres : s.responses = t.responses)
    (hport : s.port = t.port) (hpar : s.params = t.params) : s = t := by
  cases s; cases t; simp_all

end Sys2Proof.Machine
end

