-- ==== Sys2Proof/Laws/Ops.lean ====
section
/-!
SUPPORT. For each shared operation, one lemma that says everything it can do; and the unfolding of
runs.
-/

namespace Sys2Proof.Machine

@[simp] theorem maxData_eq : maxData = 249 := rfl
@[simp] theorem overhead_eq : overhead = 6 := rfl
@[simp] theorem maxFrame_eq : maxFrame = 255 := rfl
@[simp] theorem minUsable_eq : minUsable = 4 := rfl
@[simp] theorem minChecked_eq : minChecked = 6 := rfl

/-- R14: `MAX_FRAME = MAX_DATA + OVERHEAD`. -/
theorem maxFrame_eq_maxData_add_overhead : maxFrame = maxData + overhead := rfl

/-- `respond` answers one next state. -/
theorem respond_next {r : Response} {s t : State} (h : respond r s = .next t) :
    t = pushResponse r s := by
  cases h; rfl

/-- `respond` never refuses. -/
theorem respond_ne_refused {r : Response} {s : State} {why : Refusal} :
    respond r s ≠ .refused why := nofun

/-- `raise` answers one next state: the status alone as the response, and no other change (R170). -/
theorem raiseStatus_next {st : Status} {s t : State} (h : raiseStatus st s = .next t) :
    t = pushResponse (Response.ofStatus st) s := respond_next h

/-- Within the capacity the operation goes on. -/
theorem withinCapacity_of_le {buf : List Byte} {s : State} {k : Result}
    (h : buf.length ≤ s.params.rawBufMax) : withinCapacity buf s k = k :=
  if_neg (Nat.not_lt.mpr h)

/-- Beyond the capacity the request is refused (R178). -/
theorem withinCapacity_of_lt {buf : List Byte} {s : State} {k : Result}
    (h : s.params.rawBufMax < buf.length) : withinCapacity buf s k = .refused .inputBeyondCapacity :=
  if_pos h

/-- A capacity check that answers a next state passed, and its continuation answered it. -/
theorem withinCapacity_next {buf : List Byte} {s t : State} {k : Result}
    (h : withinCapacity buf s k = .next t) : buf.length ≤ s.params.rawBufMax ∧ k = .next t := by
  by_cases hlt : s.params.rawBufMax < buf.length
  · rw [withinCapacity_of_lt hlt] at h; cases h
  · have hle := Nat.not_lt.mp hlt
    exact ⟨hle, by rwa [withinCapacity_of_le hle] at h⟩

/-- A capacity check over a continuation that never refuses refuses only beyond the capacity. -/
theorem withinCapacity_refused {buf : List Byte} {s : State} {k : Result} {why : Refusal}
    (hk : ∀ w, k ≠ .refused w) (h : withinCapacity buf s k = .refused why) :
    s.params.rawBufMax < buf.length ∧ why = .inputBeyondCapacity := by
  by_cases hlt : s.params.rawBufMax < buf.length
  · rw [withinCapacity_of_lt hlt] at h; cases h; exact ⟨hlt, rfl⟩
  · rw [withinCapacity_of_le (Nat.not_lt.mp hlt)] at h; exact absurd h (hk why)

/-- A step with nothing presented. -/
theorem takeEvent_nil {s : State} (h : s.port = []) : takeEvent s = .nothing := by
  simp only [takeEvent, h]

/-- A step with a reset event presented. -/
theorem takeEvent_reset {s : State} {rest : List HostEvent} (h : s.port = .reset :: rest) :
    takeEvent s = .reset { s with port := rest } := by
  simp only [takeEvent, h]

/-- A step with a request presented. -/
theorem takeEvent_request {s : State} {r : Request} {rest : List HostEvent}
    (h : s.port = .request r :: rest) : takeEvent s = .request r { s with port := rest } := by
  simp only [takeEvent, h]

/-- No step of a run is left. -/
theorem run_zero (s : State) : run 0 s = .next s := rfl

/-- A run whose first step answers a next state goes on from it. -/
theorem run_succ_next {n : Nat} {s t : State} (h : step s = .next t) : run (n + 1) s = run n t := by
  have h' : Sys2Proof.core.step s = .next t := h
  simp only [run, Host.Core.run, h']; rfl

/-- A run whose first step is refused is refused. -/
theorem run_succ_refused {n : Nat} {s : State} {why : Refusal} (h : step s = .refused why) :
    run (n + 1) s = .refused why := by
  have h' : Sys2Proof.core.step s = .refused why := h
  simp only [run, Host.Core.run, h']; rfl

/-- A run of one step more that answers a next state: its first step answered one, and the rest of the
run goes on from there. -/
theorem run_succ_cases {n : Nat} {s t : State} (h : run (n + 1) s = .next t) :
    ∃ u, step s = .next u ∧ run n u = .next t := by
  cases hs : step s with
  | next u => exact ⟨u, rfl, by rwa [run_succ_next hs] at h⟩
  | fault f => cases f
  | refused why => rw [run_succ_refused hs] at h; cases h

end Sys2Proof.Machine
end

