-- ==== Sys2Proof/Laws/Frame.lean ====
section
/-!
SUPPORT. The small lemmas of the frame's layout: lengths, the split of an input by its parts, and when
each check of the strict check fails.
-/

namespace Sys2Proof.Machine

/-- The covered part of a frame is the header and the data (41_frame_encode.md R120). -/
theorem frameBody_length (p : Params) (cmd : Byte) (data : List Byte) :
    (frameBody p cmd data).length = data.length + 4 := by
  simp [frameBody]

/-- A frame is its covered part and two checksum bytes. -/
theorem appendChecksum_length (body : List Byte) : (appendChecksum body).length = body.length + 2 := by
  simp [appendChecksum]

/-- A frame is its data bytes plus OVERHEAD (00_scope.md R13). -/
theorem buildFrame_length (p : Params) (cmd : Byte) (data : List Byte) :
    (buildFrame p cmd data).length = data.length + overhead := by
  simp [buildFrame, appendChecksum_length, frameBody_length]

/-- The embedded checksum of an input is the pair of its last two bytes, low byte first. -/
theorem checksumOf_append {covered : List Byte} (lo hi : Byte) (h : 4 ≤ covered.length) :
    checksumOf (covered ++ [lo, hi]) = some (joinBytes lo hi) := by
  have hlen : 6 ≤ (covered ++ [lo, hi]).length := by simp; omega
  simp only [checksumOf, dif_pos hlen]
  simp [List.getElem_append_right]

/-- An input shorter than six bytes has no embedded checksum. -/
theorem checksumOf_of_lt {raw : List Byte} (h : raw.length < 6) : checksumOf raw = none :=
  dif_neg (by omega)

/-- The data of an input with a checksum lies between the header and the checksum. -/
theorem dataOf_append {hdr data : List Byte} (lo hi : Byte) (h : hdr.length = 4) :
    dataOf (hdr ++ data ++ [lo, hi]) = data := by
  have hlen : 6 ≤ (hdr ++ data ++ [lo, hi]).length := by simp; omega
  simp only [dataOf, if_pos hlen]
  have htake : (hdr ++ data ++ [lo, hi]).length - 2 = (hdr ++ data).length := by
    simp only [List.length_append, List.length_cons, List.length_nil]; omega
  rw [htake, List.take_left', ← h, List.drop_left']
  all_goals simp

/-- An input of four or more bytes has a split, and `split` says which. -/
theorem split_of_header (sync addr len cmd : Byte) (rest : List Byte) :
    split (sync :: addr :: len :: cmd :: rest) =
      some ⟨sync :: addr :: len :: cmd :: rest, sync, addr, len, cmd,
        dataOf (sync :: addr :: len :: cmd :: rest),
        checksumOf (sync :: addr :: len :: cmd :: rest)⟩ := rfl

/-- An input has a split exactly when it is usable (42_frame_decode.md R140). -/
theorem split_ne_none_iff (raw : List Byte) : split raw ≠ none ↔ minUsable ≤ raw.length := by
  match raw with
  | [] => simp [split]
  | [_] => simp [split]
  | [_, _] => simp [split]
  | [_, _, _] => simp [split]
  | _ :: _ :: _ :: _ :: _ => simp [split]

/-- The raw bytes of a split are the input. -/
theorem split_raw {raw : List Byte} {d : DecodedFrame} (h : split raw = some d) : d.raw = raw := by
  match raw with
  | [] => cases h
  | [_] => cases h
  | [_, _] => cases h
  | [_, _, _] => cases h
  | _ :: _ :: _ :: _ :: _ => cases h; rfl

/-- The first check: fewer than four bytes. -/
theorem strictCheck_short {raw : List Byte} (h : raw.length < 4) : strictCheck raw = .shortFrame :=
  if_pos h

/-- The second check: four or five bytes. -/
theorem strictCheck_noChecksum {raw : List Byte} (h4 : 4 ≤ raw.length) (h6 : raw.length < 6) :
    strictCheck raw = .noChecksum := by
  have h : ¬ raw.length < minUsable := by simpa using h4
  simp only [strictCheck, if_neg h]
  exact if_pos h6

/-- The last two checks, for an input with a checksum field. -/
theorem strictCheck_of_le {raw : List Byte} (h6 : 6 ≤ raw.length) :
    strictCheck raw =
      if raw[2]?.map BitVec.toNat ≠ some raw.length then .lengthMismatch
      else if some (crc16 (raw.take (raw.length - 2))) ≠ checksumOf raw then .checksumMismatch
      else .ok := by
  have h4 : ¬ raw.length < minUsable := by simp; omega
  have h6' : ¬ raw.length < minChecked := by simpa using h6
  simp only [strictCheck, if_neg h4, if_neg h6']

/-- FRAME_DECODE of an input that is not short: only strict mode checks it (42_frame_decode.md R142). -/
theorem decodeStatus_of_le {strict : Bool} {raw : List Byte} (h : 4 ≤ raw.length) :
    decodeStatus strict raw = if strict then strictCheck raw else .ok := by
  have h4 : ¬ raw.length < minUsable := by simpa using h
  simp only [decodeStatus, if_neg h4]

/-- FRAME_DECODE of a short input, in both modes. -/
theorem decodeStatus_short {strict : Bool} {raw : List Byte} (h : raw.length < 4) :
    decodeStatus strict raw = .shortFrame := if_pos h

end Sys2Proof.Machine
end

