-- ==== Sys2Proof/Laws/PerInstr.lean ====
section
/-!
SUPPORT. Facts made one lemma per constructor of Instr.
-/

namespace Sys2Proof.Laws

/-- The operation of the table an instruction stands for; `none` for a reserved one. -/
def operationOf : Instr → Option Operation
  | .crcInit => some .crcInit
  | .crcUpdate _ => some .crcUpdate
  | .crcRead => some .crcRead
  | .crcCompute _ => some .crcCompute
  | .frameEncode _ _ => some .frameEncode
  | .frameDecode _ => some .frameDecode
  | .frameCheck _ => some .frameCheck
  | .reserved _ => none

/-- A reserved opc selects no row, by a look at each of the 256 opc values. -/
theorem selectOperation_of_reserved :
    ∀ opc : Fin 256, ReservedOpc (BitVec.ofFin opc) → selectOperation (BitVec.ofFin opc) = none := by
  decide +kernel

namespace SelectsOwnOperation

/-- The opc that a well-formed instruction is encoded with selects that instruction's own operation, and
no operation for a reserved one (30_encoding.md R77, R78). -/
def Statement (i : Instr) : Prop := i.wf = true → selectOperation (encode i).opc = operationOf i

theorem crcInit : Statement .crcInit := fun _ => by decide
theorem crcUpdate (b : Byte) : Statement (.crcUpdate b) := fun _ => by
  show selectOperation 0x02#8 = some .crcUpdate
  decide
theorem crcRead : Statement .crcRead := fun _ => by decide
theorem crcCompute (buf : List Byte) : Statement (.crcCompute buf) := fun _ => by
  show selectOperation 0x04#8 = some .crcCompute
  decide
theorem frameEncode (cmd : Byte) (buf : List Byte) : Statement (.frameEncode cmd buf) := fun _ => by
  show selectOperation 0x05#8 = some .frameEncode
  decide
theorem frameDecode (buf : List Byte) : Statement (.frameDecode buf) := fun _ => by
  show selectOperation 0x06#8 = some .frameDecode
  decide
theorem frameCheck (buf : List Byte) : Statement (.frameCheck buf) := fun _ => by
  show selectOperation 0x07#8 = some .frameCheck
  decide

theorem reserved (opc : Byte) : Statement (.reserved opc) := fun h =>
  selectOperation_of_reserved opc.toFin (of_decide_eq_true h)

end SelectsOwnOperation

end Sys2Proof.Laws
end

