-- ==== Sys2Proof/Tests/Slice0.lean ====
section
/-!
SUPPORT. Tests of the model. Expected values are those of spec/95_test_vectors.md (section given in each
comment) or are written out by hand from the encodings of spec/30_encoding.md; none is the model's own
answer. The last part shows, for each statement that has hypotheses, a state and operands that meet them.
-/

-- One proof at a time: many small evaluations at once ask for more thread stacks than the memory limit gives.
set_option Elab.async false

namespace Sys2Proof.Tests

open Sys2Proof Sys2Proof.Machine

/-- The parameters of the vectors: SYNC_BYTE = 0x02, ADDR_BYTE = 0x03, in a given mode. -/
def testParams (strict : Bool) : Params := { Params.suggested with strictDecode := strict }

/-- A small state: the vectors' parameters in a given mode, an ACC value, and one request presented. -/
def testState (strict : Bool) (acc : Word) (i : Instr) : State :=
  { acc := acc, responses := [], port := [.request (encode i)], params := testParams strict }

/-- The one response and the ACC that a step from a small state leaves. -/
def answer (o : Result) : Option (Word × List Response) :=
  match o with
  | .next t => some (t.acc, t.responses)
  | .fault _ => none
  | .refused _ => none

/-- Whether a step is refused, and why. -/
def refusal (o : Result) : Option Refusal :=
  match o with
  | .next _ => none
  | .fault _ => none
  | .refused why => some why

theorem refused_of_refusal {o : Result} {why : Refusal} (h : refusal o = some why) :
    o = .refused why := by
  cases o with
  | next t => cases h
  | fault f => cases f
  | refused w => cases h; rfl

/-! ### WellFormed: each check refuses an ill-formed term -/

theorem test_reserved_with_first_operation_ill_formed : (Instr.reserved 0x01#8).wf = false := by decide
theorem test_reserved_with_last_operation_ill_formed : (Instr.reserved 0x07#8).wf = false := by decide
theorem test_reserved_edges_well_formed :
    (Instr.reserved 0x00#8).wf && (Instr.reserved 0x08#8).wf && (Instr.reserved 0xFF#8).wf := by decide

/-! ### Decode: words written out from 30_encoding.md R77, R78 -/

theorem test_decode_crc_init : decode ⟨0b00000001#8, 0xAA#8, 0xBB#8, [0xCC#8]⟩ = .crcInit := by decide
theorem test_decode_crc_update :
    decode ⟨0b00000010#8, 0xAA#8, 0xBB#8, [0xCC#8]⟩ = .crcUpdate 0xAA#8 := by decide
theorem test_decode_crc_read : decode ⟨0b00000011#8, 0xAA#8, 0xBB#8, [0xCC#8]⟩ = .crcRead := by decide
theorem test_decode_crc_compute :
    decode ⟨0b00000100#8, 0xAA#8, 0xBB#8, [0xCC#8]⟩ = .crcCompute [0xCC#8] := by decide
theorem test_decode_frame_encode :
    decode ⟨0b00000101#8, 0xAA#8, 0xBB#8, [0xCC#8]⟩ = .frameEncode 0xBB#8 [0xCC#8] := by decide
theorem test_decode_frame_decode :
    decode ⟨0b00000110#8, 0xAA#8, 0xBB#8, [0xCC#8]⟩ = .frameDecode [0xCC#8] := by decide
theorem test_decode_frame_check :
    decode ⟨0b00000111#8, 0xAA#8, 0xBB#8, [0xCC#8]⟩ = .frameCheck [0xCC#8] := by decide
theorem test_decode_reserved :
    decode ⟨0b10000001#8, 0xAA#8, 0xBB#8, [0xCC#8]⟩ = .reserved 0x81#8 := by decide
theorem test_decode_word_rejects_other_widths :
    decodeTableWord 16 0x0001 = none ∧ decodeTableWord 8 0x100 = none := by decide

/-- No two rows of the operation map cover one opc (R80). -/
theorem test_table_rows_disjoint :
    opcTable.Pairwise fun row row' => ∀ opc : Fin 256,
      ¬ (row.covers (BitVec.ofFin opc) ∧ row'.covers (BitVec.ofFin opc)) := by decide +kernel

/-- The step runs the word placed as the first instruction after reset. -/
theorem test_fetch_word_runs :
    answer (step (State.reset.withFetchWord 8 0x03)) =
      some (0x0000#16, [⟨.ok, some 0x0000#16, none, none⟩]) := by decide

/-! ### Assembler text (30_encoding.md R85) -/

theorem test_asm_update : (Instr.crcUpdate 0x02#8).asmText = "CRC.UPDATE 0x02" := by decide
theorem test_asm_encode :
    (Instr.frameEncode 0x33#8 [0x00#8, 0xFA#8]).asmText = "FRAME.ENCODE 0x33, [00 FA]" := by
  decide +kernel

/-! ### One step of each instruction (95_test_vectors.md sections 2.3, 2.4, 2.6, 2.7) -/

/-- 2.3: `CRC.INIT` from 0x81DA. -/
theorem test_crc_init :
    answer (step (testState false 0x81DA#16 .crcInit)) =
      some (0x0000#16, [⟨.ok, none, none, none⟩]) := by decide

/-- 2.3: `CRC.UPDATE 0xDA` from 0x81DA gives 0x0081. -/
theorem test_crc_update_own_low_byte :
    answer (step (testState false 0x81DA#16 (.crcUpdate 0xDA#8))) =
      some (0x0081#16, [⟨.ok, none, none, none⟩]) := by decide +kernel

/-- 2.3: `CRC.UPDATE 0x33` from 0xFAE6 gives 0x81DA. -/
theorem test_crc_update_streamed :
    answer (step (testState false 0xFAE6#16 (.crcUpdate 0x33#8))) =
      some (0x81DA#16, [⟨.ok, none, none, none⟩]) := by decide +kernel

/-- 2.3: `CRC.READ` at 0x81DA. -/
theorem test_crc_read :
    answer (step (testState false 0x81DA#16 .crcRead)) =
      some (0x81DA#16, [⟨.ok, some 0x81DA#16, none, none⟩]) := by decide

/-- 2.3: the check value, with ACC untouched. -/
theorem test_crc_compute_check_value :
    answer (step (testState false 0x1234#16
      (.crcCompute [0x31#8, 0x32#8, 0x33#8, 0x34#8, 0x35#8, 0x36#8, 0x37#8, 0x38#8, 0x39#8]))) =
      some (0x1234#16, [⟨.ok, some 0x2189#16, none, none⟩]) := by decide +kernel

/-- 93_implementation_defined.md I3: bytes of 0x80 and above are unsigned. -/
theorem test_crc_compute_unsigned_bytes :
    answer (step (testState false 0x1234#16 (.crcCompute
      [0x02#8, 0x03#8, 0x0C#8, 0x34#8, 0xFF#8, 0xFF#8, 0xFF#8, 0x00#8, 0x00#8, 0x00#8]))) =
      some (0x1234#16, [⟨.ok, some 0xC1B5#16, none, none⟩]) := by decide +kernel

/-- 2.4: the largest frame, 249 zero bytes: its length byte is 0xFF and its checksum `1B E6`. -/
theorem test_frame_encode_largest :
    answer (step (testState false 0x81DA#16 (.frameEncode 0x33#8 (List.replicate 249 0x00#8)))) =
      some (0x81DA#16, [⟨.ok, none, some ([0x02#8, 0x03#8, 0xFF#8, 0x33#8] ++
        List.replicate 249 0x00#8 ++ [0x1B#8, 0xE6#8]), none⟩]) := by decide +kernel

/-- 2.4: 250 bytes are too many. -/
theorem test_frame_encode_too_large :
    answer (step (testState false 0x81DA#16 (.frameEncode 0x33#8 (List.replicate 250 0x00#8)))) =
      some (0x81DA#16, [⟨.frameTooLarge, none, none, none⟩]) := by decide +kernel

/-- 2.6: a 5-byte input has data and no checksum in lenient mode. -/
theorem test_frame_decode_five_bytes :
    answer (step (testState false 0x0000#16 (.frameDecode [0x00#8, 0x00#8, 0x00#8, 0x47#8, 0x50#8]))) =
      some (0x0000#16, [⟨.ok, none, none, some ⟨[0x00#8, 0x00#8, 0x00#8, 0x47#8, 0x50#8],
        0x00#8, 0x00#8, 0x00#8, 0x47#8, [0x50#8], none⟩⟩]) := by decide +kernel

/-- 2.6: the strict decode of a frame with payload. -/
theorem test_frame_decode_strict_payload :
    answer (step (testState true 0x0000#16
      (.frameDecode [0x02#8, 0x03#8, 0x07#8, 0x81#8, 0x05#8, 0xF9#8, 0x7D#8]))) =
      some (0x0000#16, [⟨.ok, none, none, some ⟨[0x02#8, 0x03#8, 0x07#8, 0x81#8, 0x05#8, 0xF9#8, 0x7D#8],
        0x02#8, 0x03#8, 0x07#8, 0x81#8, [0x05#8], some 0x7DF9#16⟩⟩]) := by decide +kernel

/-- 2.6: swapped checksum bytes. -/
theorem test_frame_check_swapped :
    answer (step (testState false 0x0000#16
      (.frameCheck [0x02#8, 0x03#8, 0x06#8, 0x33#8, 0x81#8, 0xDA#8]))) =
      some (0x0000#16, [⟨.checksumMismatch, none, none, none⟩]) := by decide +kernel

/-- 2.6: a wrong length byte. -/
theorem test_frame_check_wrong_length :
    answer (step (testState false 0x0000#16
      (.frameCheck [0x02#8, 0x03#8, 0x07#8, 0x33#8, 0xDA#8, 0x81#8]))) =
      some (0x0000#16, [⟨.lengthMismatch, none, none, none⟩]) := by decide +kernel

/-- 2.7: the opc is checked before the capacity. -/
theorem test_reserved_beyond_capacity :
    answer (step { testState false 0x81DA#16 .crcInit with
      port := [.request ⟨0xFF#8, 0x00#8, 0x00#8, List.replicate 256 0x00#8⟩] }) =
      some (0x81DA#16, [⟨.illegalOperation, none, none, none⟩]) := by decide +kernel

/-- 2.7: `CRC.COMPUTE` of RAW_BUF_MAX + 1 bytes is refused. -/
theorem test_crc_compute_refused :
    refusal (step (testState false 0x81DA#16 (.crcCompute (List.replicate 256 0x00#8)))) =
      some .inputBeyondCapacity := by decide +kernel

/-- 2.5: `ENC.SET_SECURITY [00 00 00]` under the suggested codes. -/
theorem test_enc_set_security :
    (Pseudo.expand CommandCodes.suggested (.enc .setSecurity [0x00#8, 0x00#8, 0x00#8])).map
        (fun i => answer (step (testState false 0x0000#16 i))) =
      [some (0x0000#16, [⟨.ok, none, some [0x02#8, 0x03#8, 0x09#8, 0x32#8, 0x00#8, 0x00#8, 0x00#8,
        0x26#8, 0x1F#8], none⟩])] := by decide +kernel

/-! ### Witnesses: what meets the hypotheses of each statement -/

/-- An idle state with the vectors' parameters. -/
def idle (strict : Bool) : State :=
  { acc := 0x81DA#16, responses := [], port := [], params := testParams strict }

/-- The POLL frame of 95_test_vectors.md section 2.4, and its swapped-checksum variant. -/
def pollFrame : List Byte := [0x02#8, 0x03#8, 0x06#8, 0x33#8, 0xDA#8, 0x81#8]
def swappedFrame : List Byte := [0x02#8, 0x03#8, 0x06#8, 0x33#8, 0x81#8, 0xDA#8]

theorem witness_params_wf : (idle false).params.wf ∧ (idle true).params.wf := by decide

theorem witness_ResetAccIsCrcInit : State.reset.acc = State.reset.acc ∧
    (resetBlock (idle true)).acc = State.reset.acc := by decide

theorem witness_ResetEventClearsAccOnly :
    ({ idle false with port := [.reset, .reset] } : State).port = .reset :: [.reset] := by decide

theorem witness_IdleStepChangesNothing : (idle false).port = [] := by decide

theorem witness_StepRunsDecodedInstruction :
    (testState false 0x0000#16 (.reserved 0x08#8)).port = .request ⟨0x08#8, 0#8, 0#8, []⟩ :: [] ∧
    (Instr.reserved 0x08#8).wf = true ∧
    (testState false 0x0000#16 (.reserved 0x08#8)).port = .request (encode (.reserved 0x08#8)) :: [] := by
  decide

theorem witness_StepServesOldestEvent :
    (∃ t, step (idle false) = .next t) ∧
    (∃ t, step { idle false with port := [.reset] } = .next t) ∧
    (∃ t, step (testState false 0x0000#16 .crcRead) = .next t) := ⟨⟨_, rfl⟩, ⟨_, rfl⟩, ⟨_, rfl⟩⟩

theorem witness_DecodeEncodeAgree :
    (Instr.reserved 0x00#8).wf = true ∧ (Instr.reserved 0xFF#8).wf = true ∧
    (Instr.frameEncode 0xFF#8 [0x00#8]).wf = true ∧
    Request.agreesOnRead ⟨0x02#8, 0xAA#8, 0x01#8, []⟩ ⟨0x02#8, 0xAA#8, 0x02#8, [0x00#8]⟩ ∧
    decode ⟨0x02#8, 0xAA#8, 0x01#8, []⟩ = decode ⟨0x02#8, 0xAA#8, 0x02#8, [0x00#8]⟩ :=
  ⟨by decide, by decide, by decide, ⟨rfl, rfl⟩, by decide⟩

theorem witness_OpcSelectsOperation :
    (encode .crcInit).opc = 0b00000001#8 ∧ (encode (.crcUpdate 0#8)).opc = 0b00000010#8 ∧
    (encode .crcRead).opc = 0b00000011#8 ∧ (encode (.crcCompute [])).opc = 0b00000100#8 ∧
    (encode (.frameEncode 0#8 [])).opc = 0b00000101#8 ∧ (encode (.frameDecode [])).opc = 0b00000110#8 ∧
    (encode (.frameCheck [])).opc = 0b00000111#8 ∧
    ∃ t, exec (decode (encode .crcRead)) (idle false) = .next t :=
  ⟨by decide, by decide, by decide, by decide, by decide, by decide, by decide, _, rfl⟩

theorem witness_ReservedOpcIsIllegalOperation :
    (testState false 0x81DA#16 (.reserved 0x00#8)).port = .request ⟨0x00#8, 0#8, 0#8, []⟩ :: [] ∧
    ReservedOpc 0x00#8 ∧
    (testState false 0x81DA#16 (.reserved 0x08#8)).port = .request ⟨0x08#8, 0#8, 0#8, []⟩ :: [] ∧
    ReservedOpc 0x08#8 ∧ ReservedOpc 0xFF#8 := by decide

theorem witness_UnreadFieldsAreIgnored :
    let r : Request := ⟨0x05#8, 0xAA#8, 0x33#8, [0x00#8]⟩
    let r' : Request := ⟨0x05#8, 0xBB#8, 0x33#8, [0x00#8]⟩
    r ≠ r' ∧ r.opc = r'.opc ∧ (r.opc = 0x02#8 → r.b = r'.b) ∧ (r.opc = 0x05#8 → r.cmd = r'.cmd) ∧
      (r.opc = 0x04#8 ∨ r.opc = 0x05#8 ∨ r.opc = 0x06#8 ∨ r.opc = 0x07#8 → r.buf = r'.buf) := by
  decide

/-- Every status is the answer of some instruction, and every field is set by some. -/
theorem witness_StatusCodesAndRaisers :
    [ Instr.crcRead, .frameDecode (List.replicate 3 0#8), .frameEncode 0#8 (List.replicate 250 0#8),
      .frameCheck (List.replicate 4 0#8), .frameCheck (List.replicate 6 0#8), .frameCheck swappedFrame,
      .reserved 0x00#8 ].map
        (fun i => (answer (exec i (idle true))).map fun p => p.2.map Response.status) =
      [some [.ok], some [.shortFrame], some [.frameTooLarge], some [.noChecksum], some [.lengthMismatch],
        some [.checksumMismatch], some [.illegalOperation]] := by decide +kernel

theorem witness_ResponseFieldsByOperation :
    [ Instr.crcRead, .crcCompute [], .frameEncode 0#8 [], .frameDecode pollFrame ].map
        (fun i => (answer (exec i (idle true))).map fun p => p.2.map fun r =>
          (r.value.isSome, r.bytes.isSome, r.frame.isSome)) =
      [some [(true, false, false)], some [(true, false, false)], some [(false, true, false)],
        some [(false, false, true)]] := by decide +kernel

theorem witness_CrcInitSetsAccToZero :
    ∃ t u, exec .crcInit (idle false) = .next t ∧ exec .crcInit t = .next u ∧
      ∃ v, exec .crcInit State.reset = .next v := ⟨_, _, rfl, rfl, _, rfl⟩

theorem witness_CrcReadReturnsAcc : ∃ t, exec .crcRead State.reset = .next t := ⟨_, rfl⟩

theorem witness_CrcComputeReturnsCrc :
    (List.replicate 255 0x00#8 : List Byte).length ≤ (idle false).params.rawBufMax ∧
    (idle false).params.rawBufMax < (List.replicate 256 0x00#8 : List Byte).length := by decide +kernel

theorem witness_ResidueIsZero :
    (0x81DA#16 : Word) = crc16 [0x02#8, 0x03#8, 0x06#8, 0x33#8] ∧
    ∃ t, exec (.frameEncode 0x33#8 []) (idle false) = .next t ∧
      t.responses = (idle false).responses ++ [⟨.ok, none, some pollFrame, none⟩] :=
  ⟨by decide +kernel, _, rfl, by decide +kernel⟩

theorem witness_CrcIsLinear :
    ([0x02#8, 0x33#8] : List Byte).length = ([0xFF#8, 0x01#8] : List Byte).length := by decide

theorem witness_ChecksumHoldsIffResidueZero :
    pollFrame = [0x02#8, 0x03#8, 0x06#8, 0x33#8] ++ [0xDA#8, 0x81#8] ∧ 6 ≤ pollFrame.length := by decide

/-- The three outcomes of FRAME_ENCODE at the boundaries of their ranges. -/
theorem witness_FrameEncodeBuildsFrame :
    let max := (idle false).params.rawBufMax
    max < (List.replicate 256 0x00#8 : List Byte).length ∧
    ((List.replicate 255 0x00#8 : List Byte).length ≤ max ∧
      249 < (List.replicate 255 0x00#8 : List Byte).length) ∧
    ((List.replicate 250 0x00#8 : List Byte).length ≤ max ∧
      249 < (List.replicate 250 0x00#8 : List Byte).length) ∧
    ((List.replicate 249 0x00#8 : List Byte).length ≤ max ∧
      (List.replicate 249 0x00#8 : List Byte).length ≤ 249) := by decide +kernel

theorem witness_FrameLengthByteIsFrameLength :
    (idle false).params.wf ∧ (List.replicate 249 0x00#8 : List Byte).length ≤ 249 := by decide +kernel

theorem witness_FrameChecksumRoundTrip :
    (idle true).params.wf ∧ ∃ t, exec (.frameEncode 0x33#8 []) (idle true) = .next t ∧
      t.responses = (idle true).responses ++ [⟨.ok, none, some pollFrame, none⟩] :=
  ⟨by decide, _, rfl, by decide +kernel⟩

theorem witness_FrameFixedFieldsAndData :
    ∃ t, exec (.frameEncode 0x33#8 []) (idle false) = .next t ∧
      t.responses = (idle false).responses ++ [⟨.ok, none, some pollFrame, none⟩] :=
  ⟨_, rfl, by decide +kernel⟩

/-- Two states that differ in ACC, in the mode and in the capacity. -/
theorem witness_EncodeDependsOnlyOnInputs :
    let s := idle false
    let s' : State := { State.reset with params := { testParams true with rawBufMax := 1000 } }
    s.params.syncByte = s'.params.syncByte ∧ s.params.addrByte = s'.params.addrByte ∧
      (∃ t, exec (.frameEncode 0x33#8 []) s = .next t) ∧
      ∃ t', exec (.frameEncode 0x33#8 []) s' = .next t' := ⟨rfl, rfl, ⟨_, rfl⟩, ⟨_, rfl⟩⟩

/-- Inputs of 4, 5 and 6 bytes, where the two clauses of the split meet. -/
theorem witness_SplitReadsFieldsByPosition :
    (4 ≤ ([0#8, 0#8, 0#8, 0#8] : List Byte).length ∧ ([0#8, 0#8, 0#8, 0#8] : List Byte).length < 6) ∧
    (4 ≤ ([0#8, 0#8, 0#8, 0#8, 0#8] : List Byte).length ∧
      ([0#8, 0#8, 0#8, 0#8, 0#8] : List Byte).length < 6) ∧
    (4 ≤ pollFrame.length ∧ 6 ≤ pollFrame.length) := by decide

/-- Each outcome of FRAME_DECODE: beyond the capacity; three bytes; strict failures at four bytes and at
a wrong checksum; OK in both modes, at four bytes and at a whole frame. -/
theorem witness_FrameDecodeOutcomes :
    let strict := idle true
    let lenient := idle false
    strict.params.rawBufMax < (List.replicate 256 0x00#8 : List Byte).length ∧
    ([0#8, 0#8, 0#8] : List Byte).length < 4 ∧
    (strict.params.strictDecode = true ∧ strictCheck [0#8, 0#8, 0#8, 0#8] ≠ .ok ∧
      strictCheck swappedFrame ≠ .ok) ∧
    (strict.params.strictDecode = true → strictCheck pollFrame = .ok) ∧
    (lenient.params.strictDecode = true → strictCheck [0#8, 0#8, 0#8, 0#8] = .ok) ∧
    pollFrame.length ≤ strict.params.rawBufMax ∧ 4 ≤ pollFrame.length := by decide +kernel

/-- Each clause of FRAME_CHECK: 256, 3, 4 and 5 bytes; a wrong length byte; a wrong checksum; a frame. -/
theorem witness_FrameCheckVerdict :
    (idle false).params.rawBufMax < (List.replicate 256 0x00#8 : List Byte).length ∧
    ([0#8, 0#8, 0#8] : List Byte).length < 4 ∧ ([0#8, 0#8, 0#8, 0#8] : List Byte).length = 4 ∧
    ([0#8, 0#8, 0#8, 0#8, 0#8] : List Byte).length = 5 ∧
    ([0x02#8, 0x03#8, 0x07#8, 0x33#8, 0xDA#8, 0x81#8] : List Byte) =
      [0x02#8, 0x03#8] ++ [0x07#8] ++ [0x33#8] ++ [0xDA#8, 0x81#8] ∧ (0x07#8).toNat ≠ 6 ∧
    swappedFrame = [0x02#8, 0x03#8] ++ [0x06#8] ++ [0x33#8] ++ [0x81#8, 0xDA#8] ∧
    (0x06#8).toNat = swappedFrame.length ∧
    crc16 ([0x02#8, 0x03#8] ++ [0x06#8] ++ [0x33#8]) ≠
      (0x81#8).setWidth 16 ||| ((0xDA#8).setWidth 16 <<< 8) ∧
    pollFrame = [0x02#8, 0x03#8] ++ [0x06#8] ++ [0x33#8] ++ [0xDA#8, 0x81#8] ∧
    (0x06#8).toNat = pollFrame.length ∧
    crc16 ([0x02#8, 0x03#8] ++ [0x06#8] ++ [0x33#8]) =
      (0xDA#8).setWidth 16 ||| ((0x81#8).setWidth 16 <<< 8) := by decide +kernel

theorem witness_LenientDecodeIsTotal :
    (idle false).params.strictDecode = false ∧
    ([0#8, 0#8, 0#8] : List Byte).length ≤ (idle false).params.rawBufMax ∧
    ([0#8, 0#8, 0#8] : List Byte).length < 4 ∧
    (List.replicate 255 0x00#8 : List Byte).length ≤ (idle false).params.rawBufMax ∧
    4 ≤ (List.replicate 255 0x00#8 : List Byte).length ∧
    4 ≤ ([0#8, 0#8, 0#8, 0#8] : List Byte).length := by decide +kernel

theorem witness_DecodeAfterEncode :
    (idle true).params.wf ∧ (idle false).params.wf ∧
    (List.replicate 249 0xFF#8 : List Byte).length ≤ 249 := by decide +kernel

theorem witness_ShortFramesTolerated :
    (idle true).params.wf ∧ ([0#8, 0#8, 0#8] : List Byte).length < 4 ∧ ([] : List Byte).length < 4 := by
  decide

theorem witness_LenientDecodePassesBytesThrough :
    (idle false).params.strictDecode = false ∧
    swappedFrame.length ≤ (idle false).params.rawBufMax ∧ 4 ≤ swappedFrame.length ∧
    4 ≤ ([0#8, 0#8, 0#8, 0#8] : List Byte).length := by decide

/-- Two states with the same mode that differ in ACC and in the sync and address bytes, and two that
differ in the mode as well. -/
theorem witness_DecoderDependsOnlyOnInputs :
    let s := idle true
    let s' : State := { State.reset with params := { testParams true with syncByte := 0xFF#8, addrByte := 0x00#8 } }
    s.params.rawBufMax = s'.params.rawBufMax ∧ s.params.strictDecode = s'.params.strictDecode ∧
    (idle true).params.rawBufMax = (idle false).params.rawBufMax := ⟨rfl, rfl, rfl⟩

theorem witness_NonOkStatusWritesNothing :
    let s := testState false 0x81DA#16 .crcRead
    ∃ t, exec (.reserved 0x00#8) s = .next t ∧
      t.responses = s.responses ++ [⟨.illegalOperation, none, none, none⟩] ∧
      Status.illegalOperation ≠ .ok ∧ t.port = .request (encode .crcRead) :: [] :=
  ⟨_, rfl, rfl, by decide, rfl⟩

/-- Every check of R177 decides some request: in strict mode, one request for each in turn. -/
theorem witness_FirstApplicableCheckDecides :
    [ Instr.reserved 0xFF#8, .crcCompute (List.replicate 256 0#8),
      .frameEncode 0#8 (List.replicate 250 0#8), .frameDecode [0#8, 0#8, 0#8],
      .frameDecode [0#8, 0#8, 0#8, 0#8], .frameDecode (List.replicate 6 0#8), .frameDecode swappedFrame,
      .frameDecode pollFrame ].map
        (fun i => let o := step (testState true 0x0000#16 i)
          ((answer o).map fun p => p.2.map Response.status, refusal o)) =
      [ (some [.illegalOperation], none), (none, some .inputBeyondCapacity), (some [.frameTooLarge], none),
        (some [.shortFrame], none), (some [.noChecksum], none), (some [.lengthMismatch], none),
        (some [.checksumMismatch], none), (some [.ok], none) ] := by decide +kernel

theorem witness_RefusedExactlyBeyondCapacity :
    step (testState false 0x0000#16 (.frameCheck (List.replicate 256 0#8))) =
      .refused .inputBeyondCapacity := by
  exact refused_of_refusal (by decide +kernel)

theorem witness_OneShotOperationsLeaveNoState :
    bufOperand (.crcCompute []) ≠ none ∧ (idle false).params = (State.reset).params ∧
    (∃ t, exec (.crcCompute []) (idle false) = .next t) ∧
    ∃ t', exec (.crcCompute []) State.reset = .next t' := ⟨by decide, by decide, ⟨_, rfl⟩, ⟨_, rfl⟩⟩

theorem witness_OnlyStreamingOperationsTouchAcc :
    (∃ t, exec .crcRead (idle false) = .next t) ∧ Instr.crcRead ≠ .crcInit ∧
    (∀ b, Instr.crcRead ≠ .crcUpdate b) ∧ (∃ t, exec .crcInit (idle false) = .next t) ∧
    Instr.crcInit ≠ .crcRead ∧ (∀ b, Instr.crcInit ≠ .crcUpdate b) :=
  ⟨⟨_, rfl⟩, by decide, nofun, ⟨_, rfl⟩, by decide, nofun⟩

theorem witness_ParametersAreFixed :
    ∃ t, run 2 (issue [.crcUpdate 0x02#8, .crcRead] (idle true)) = .next t := ⟨_, rfl⟩

theorem witness_CommandTableIsNeverRead :
    (∃ t, step (testState false 0x0000#16 (.frameEncode 0x33#8 [])) = .next t) ∧
    step (testState false 0x0000#16 (.frameEncode 0x33#8 (List.replicate 256 0#8))) =
      .refused .inputBeyondCapacity := by
  refine ⟨⟨_, rfl⟩, ?_⟩
  exact refused_of_refusal (by decide +kernel)

theorem witness_AllButUpdateIdempotent :
    (∀ b, Instr.crcInit ≠ .crcUpdate b) ∧ ∃ t, exec .crcInit (idle false) = .next t := ⟨nofun, _, rfl⟩

theorem witness_NonUpdatingRequestsCommute :
    Instr.crcRead ≠ .crcInit ∧ (∀ b, Instr.crcRead ≠ .crcUpdate b) ∧
    Instr.frameCheck pollFrame ≠ .crcInit ∧ (∀ b, Instr.frameCheck pollFrame ≠ .crcUpdate b) ∧
    ∃ t u, exec .crcRead (idle false) = .next t ∧ exec (.frameCheck pollFrame) t = .next u :=
  ⟨by decide, nofun, by decide, nofun, _, _, rfl, rfl⟩

theorem witness_AccFollowsEventsTaken :
    ∃ t, run 3 { issue [.crcUpdate 0x02#8, .crcInit] (idle false) with
      port := [.request (encode (.crcUpdate 0x02#8)), .reset, .request (encode .crcInit)] } = .next t :=
  ⟨_, rfl⟩

theorem witness_EveryRequestAnsweredOnce :
    PortFitsCapacity { idle true with
      port := [.request (encode (.frameDecode (List.replicate 255 0#8))), .reset,
        .request ⟨0xFF#8, 0#8, 0#8, List.replicate 256 0#8⟩] } := by decide +kernel

/-- A state that meets the invariant with a response already given, and a step from it. -/
theorem witness_StepKeepsInvariant :
    let s := { testState true 0x0000#16 (.frameEncode 0x33#8 []) with
      responses := [Response.ofStatus .shortFrame] }
    s.Inv ∧ ∃ t, step s = .next t := by
  refine ⟨⟨by decide, ?_⟩, _, rfl⟩
  intro r hr
  cases List.mem_singleton.mp hr
  exact ⟨fun _ => rfl, nofun, nofun, nofun, nofun⟩

end Sys2Proof.Tests
end

section
/-!
PROOF. How the machine serves a request, and the whole effect of a stream of CRC_UPDATE requests
(30_encoding.md R79; 40_crc.md R102, R103, R106; 20_memory.md R55).
-/

namespace Sys2Proof.Machine

/-- 30_encoding.md R77, R78. -/
theorem selectOperation_encode {i : Instr} (hwf : i.wf = true) :
    selectOperation (encode i).opc = Laws.operationOf i := by
  cases i with
  | crcInit => exact Laws.SelectsOwnOperation.crcInit hwf
  | crcUpdate b => exact Laws.SelectsOwnOperation.crcUpdate b hwf
  | crcRead => exact Laws.SelectsOwnOperation.crcRead hwf
  | crcCompute buf => exact Laws.SelectsOwnOperation.crcCompute buf hwf
  | frameEncode cmd buf => exact Laws.SelectsOwnOperation.frameEncode cmd buf hwf
  | frameDecode buf => exact Laws.SelectsOwnOperation.frameDecode buf hwf
  | frameCheck buf => exact Laws.SelectsOwnOperation.frameCheck buf hwf
  | reserved opc => exact Laws.SelectsOwnOperation.reserved opc hwf

theorem decode_encode {i : Instr} (hwf : i.wf = true) : decode (encode i) = i := by
  unfold decode
  rw [selectOperation_encode hwf]
  cases i <;> rfl

theorem step_request {s : State} {r : Request} {rest : List HostEvent}
    (hport : s.port = .request r :: rest) : step s = exec (decode r) { s with port := rest } := by
  simp only [step, takeEvent_request hport]

@[simp] theorem issue_nil (s : State) : issue [] s = s := rfl

/-- An operation's write of ACC and its response leave the requests behind it as they are. -/
theorem pushResponse_writeAcc_issue (r : Response) (v : Word) (is : List Instr) (s : State) :
    pushResponse r (writeAcc v (issue is s)) = issue is (pushResponse r (writeAcc v s)) := rfl

theorem step_issue_cons {i : Instr} (hwf : i.wf = true) (is : List Instr) (s : State) :
    step (issue (i :: is) s) = exec i (issue is s) := by
  have hport : (issue (i :: is) s).port = .request (encode i) :: (issue is s).port := rfl
  rw [step_request hport, decode_encode hwf]
  rfl

theorem exec_crcInit (s : State) :
    exec .crcInit s = .next (pushResponse (.ofStatus .ok) (writeAcc crcInitValue s)) := rfl

theorem exec_crcUpdate (b : Byte) (s : State) :
    exec (.crcUpdate b) s =
      .next (pushResponse (.ofStatus .ok) (writeAcc (crc16Byte s.acc b) s)) := rfl

theorem run_issue_crcInit (n : Nat) (is : List Instr) (s : State) :
    run (n + 1) (issue (.crcInit :: is) s) =
      run n (issue is (pushResponse (.ofStatus .ok) (writeAcc crcInitValue s))) := by
  apply run_succ_next
  rw [step_issue_cons rfl, exec_crcInit, pushResponse_writeAcc_issue]

theorem run_issue_crcUpdate (n : Nat) (b : Byte) (is : List Instr) (s : State) :
    run (n + 1) (issue (.crcUpdate b :: is) s) =
      run n (issue is (pushResponse (.ofStatus .ok) (writeAcc (crc16Byte s.acc b) s))) := by
  apply run_succ_next
  rw [step_issue_cons rfl, exec_crcUpdate, pushResponse_writeAcc_issue]
  rfl

/-- 40_crc.md R106: from any accumulator the updates fold on from it, one OK response for each. The
requests `is` behind them are still to be served, and `n` more steps serve them. -/
theorem run_issue_crcUpdates (n : Nat) (bs : List Byte) (is : List Instr) (s : State) :
    run (bs.length + n) (issue (bs.map .crcUpdate ++ is) s) =
      run n (issue is { s with
        acc := crcFold s.acc bs
        responses := s.responses ++ List.replicate bs.length (.ofStatus .ok) }) := by
  induction bs generalizing s with
  | nil => simp [crcFold_nil]
  | cons b bs ih =>
    rw [List.length_cons, Nat.add_right_comm, List.map_cons, List.cons_append,
      run_issue_crcUpdate, ih]
    simp [pushResponse, writeAcc, crcFold_cons, List.replicate_succ]

theorem run_crcUpdates (bs : List Byte) (s : State) :
    run bs.length (issue (bs.map .crcUpdate) s) = .next { s with
      acc := crcFold s.acc bs
      responses := s.responses ++ List.replicate bs.length (.ofStatus .ok) } := by
  simpa [run_zero] using run_issue_crcUpdates 0 bs [] s

end Sys2Proof.Machine
end

section
/-!
PROOF. What the four buffer operations answer, as a function of the parameters and of the request
alone (10_state.md R33, R34).
-/

namespace Sys2Proof.Machine

/-- The response of FRAME_ENCODE to data within the capacity (41_frame_encode.md R120). -/
def frameEncodeResponse (p : Params) (cmd : Byte) (buf : List Byte) : Response :=
  if maxData < buf.length then .ofStatus .frameTooLarge else .ofBytes (buildFrame p cmd buf)

/-- The response of FRAME_DECODE to an input within the capacity (42_frame_decode.md R142). -/
def frameDecodeResponse (p : Params) (buf : List Byte) : Response :=
  if decodeStatus p.strictDecode buf = .ok then .ofFrame (split buf)
  else .ofStatus (decodeStatus p.strictDecode buf)

theorem exec_crcCompute (buf : List Byte) (s : State) :
    exec (.crcCompute buf) s = withinCapacity buf s (respond (.ofValue (crc16 buf)) s) := rfl

theorem exec_frameCheck (buf : List Byte) (s : State) :
    exec (.frameCheck buf) s = withinCapacity buf s (respond (.ofStatus (strictCheck buf)) s) := rfl

theorem exec_frameEncode (cmd : Byte) (buf : List Byte) (s : State) :
    exec (.frameEncode cmd buf) s =
      withinCapacity buf s (respond (frameEncodeResponse s.params cmd buf) s) := by
  simp only [exec, execFrameEncode, frameEncodeResponse, raiseStatus]
  split <;> rfl

theorem exec_frameDecode (buf : List Byte) (s : State) :
    exec (.frameDecode buf) s =
      withinCapacity buf s (respond (frameDecodeResponse s.params buf) s) := by
  simp only [exec, execFrameDecode, frameDecodeResponse, raiseStatus]
  cases decodeStatus s.params.strictDecode buf <;> rfl

/-- A buffer operation only responds, and the parameters alone decide what: nothing else of the state
is written, and neither ACC nor an earlier response is read. -/
theorem exec_bufferOperation {i : Instr} (hbuf : bufOperand i ≠ none) :
    ∃ answer : Params → Response, ∀ s t : State, exec i s = .next t →
      t = pushResponse (answer s.params) s := by
  have served {s t : State} {buf : List Byte} {r : Response}
      (h : withinCapacity buf s (respond r s) = .next t) : t = pushResponse r s :=
    respond_next (withinCapacity_next h).2
  cases i with
  | crcInit => exact absurd rfl hbuf
  | crcUpdate b => exact absurd rfl hbuf
  | crcRead => exact absurd rfl hbuf
  | reserved opc => exact absurd rfl hbuf
  | crcCompute buf =>
    exact ⟨fun _ => .ofValue (crc16 buf), fun s _ h => served (exec_crcCompute buf s ▸ h)⟩
  | frameCheck buf =>
    exact ⟨fun _ => .ofStatus (strictCheck buf), fun s _ h => served (exec_frameCheck buf s ▸ h)⟩
  | frameEncode cmd buf =>
    exact ⟨fun p => frameEncodeResponse p cmd buf,
      fun s _ h => served (exec_frameEncode cmd buf s ▸ h)⟩
  | frameDecode buf =>
    exact ⟨fun p => frameDecodeResponse p buf, fun s _ h => served (exec_frameDecode buf s ▸ h)⟩

end Sys2Proof.Machine
end

section
/-!
PROOF. The statements of 10_state.md.
-/

namespace Sys2Proof.Machine

/-- Settles O1: both runs fold the same bytes, and the CRC_INIT before the second only writes the value
that ACC already has. -/
theorem resetAccIsCrcInit : Obligations.ResetAccIsCrcInit := by
  refine ⟨rfl, rfl, fun s bs hacc => ?_⟩
  have hplain := run_crcUpdates bs s
  have hinit := (run_issue_crcInit bs.length (bs.map .crcUpdate) s).trans (run_crcUpdates bs _)
  have hfold : crcFold s.acc bs = crc16 bs := by rw [hacc]; rfl
  exact ⟨_, _, hplain, hinit, hfold, rfl⟩

/-- Settles O42: the response depends on the parameters alone, and it is all that is written. -/
theorem oneShotOperationsLeaveNoState : Obligations.OneShotOperationsLeaveNoState := by
  intro i hbuf
  obtain ⟨answer, hanswer⟩ := exec_bufferOperation hbuf
  refine ⟨fun s t h => ⟨answer s.params, hanswer s t h⟩, fun s s' t t' hpar h h' => ?_⟩
  refine ⟨answer s.params, ?_, ?_⟩
  · rw [hanswer s t h, pushResponse_responses]
  · rw [hanswer s' t' h', pushResponse_responses, hpar]

end Sys2Proof.Machine
end

section
/-!
PROOF. The whole effect of an operation on the state it starts from: the ACC it leaves, the one
response it gives, and when it answers at all (10_state.md R26, R33; 60_exceptions.md R178).
-/

namespace Sys2Proof.Machine

/-- What an operation leaves in ACC, from what it finds there (40_crc.md R102, R103; 10_state.md R26). -/
def accAfter : Instr → Word → Word
  | .crcInit, _ => crcInitValue
  | .crcUpdate b, a => crc16Byte a b
  | _, a => a

/-- The response an operation gives: ACC and the parameters are all of the state that it can read. -/
def responseTo : Instr → Word → Params → Response
  | .crcInit, _, _ => .ofStatus .ok
  | .crcUpdate _, _, _ => .ofStatus .ok
  | .crcRead, a, _ => .ofValue a
  | .crcCompute buf, _, _ => .ofValue (crc16 buf)
  | .frameEncode cmd buf, _, p => frameEncodeResponse p cmd buf
  | .frameDecode buf, _, p => frameDecodeResponse p buf
  | .frameCheck buf, _, _ => .ofStatus (strictCheck buf)
  | .reserved _, _, _ => .ofStatus .illegalOperation

/-- The state after an operation that is not refused. -/
def stateAfter (i : Instr) (s : State) : State :=
  pushResponse (responseTo i s.acc s.params) (writeAcc (accAfter i s.acc) s)

@[simp] theorem stateAfter_acc (i : Instr) (s : State) :
    (stateAfter i s).acc = accAfter i s.acc := rfl
@[simp] theorem stateAfter_responses (i : Instr) (s : State) :
    (stateAfter i s).responses = s.responses ++ [responseTo i s.acc s.params] := rfl
@[simp] theorem stateAfter_port (i : Instr) (s : State) : (stateAfter i s).port = s.port := rfl
@[simp] theorem stateAfter_params (i : Instr) (s : State) : (stateAfter i s).params = s.params := rfl

theorem fitsCapacity_of_bufOperand_none {i : Instr} (h : bufOperand i = none) (p : Params) :
    FitsCapacity p i := by
  simp [FitsCapacity, h]

theorem fitsCapacity_iff_of_bufOperand_some {i : Instr} {buf : List Byte}
    (h : bufOperand i = some buf) (p : Params) : FitsCapacity p i ↔ buf.length ≤ p.rawBufMax := by
  simp [FitsCapacity, h]

theorem withinCapacity_respond_next_iff {buf : List Byte} {r : Response} {s t : State} :
    withinCapacity buf s (respond r s) = .next t ↔
      buf.length ≤ s.params.rawBufMax ∧ t = pushResponse r s := by
  constructor
  · intro h
    obtain ⟨hle, hk⟩ := withinCapacity_next h
    exact ⟨hle, respond_next hk⟩
  · rintro ⟨hle, rfl⟩
    exact withinCapacity_of_le hle

/-- An operation answers exactly when its `buf` operand fits, and then with `stateAfter`. -/
theorem exec_next_iff (i : Instr) (s t : State) :
    exec i s = .next t ↔ FitsCapacity s.params i ∧ t = stateAfter i s := by
  have unbuffered (hbuf : bufOperand i = none) (h : exec i s = .next (stateAfter i s)) :
      exec i s = .next t ↔ FitsCapacity s.params i ∧ t = stateAfter i s := by
    rw [h, Host.Outcome.next.injEq, eq_comm]
    exact (and_iff_right (fitsCapacity_of_bufOperand_none hbuf s.params)).symm
  have buffered {buf : List Byte} (hbuf : bufOperand i = some buf)
      (h : exec i s = withinCapacity buf s (respond (responseTo i s.acc s.params) s))
      (hacc : accAfter i s.acc = s.acc) :
      exec i s = .next t ↔ FitsCapacity s.params i ∧ t = stateAfter i s := by
    rw [h, withinCapacity_respond_next_iff, fitsCapacity_iff_of_bufOperand_some hbuf, stateAfter, hacc]
    rfl
  cases i with
  | crcInit => exact unbuffered rfl (exec_crcInit s)
  | crcUpdate b => exact unbuffered rfl (exec_crcUpdate b s)
  | crcRead => exact unbuffered rfl rfl
  | reserved opc => exact unbuffered rfl rfl
  | crcCompute buf => exact buffered rfl (exec_crcCompute buf s) rfl
  | frameEncode cmd buf => exact buffered rfl (exec_frameEncode cmd buf s) rfl
  | frameDecode buf => exact buffered rfl (exec_frameDecode buf s) rfl
  | frameCheck buf => exact buffered rfl (exec_frameCheck buf s) rfl

end Sys2Proof.Machine
end

section
/-!
PROOF. The statement of 20_memory.md.
-/

namespace Sys2Proof.Machine

section NotUpdate

variable {i : Instr} (hupdate : ∀ b, i ≠ .crcUpdate b)
include hupdate

/-- CRC_INIT writes a constant, and the others leave ACC alone. -/
theorem accAfter_accAfter (a : Word) : accAfter i (accAfter i a) = accAfter i a := by
  cases i with
  | crcUpdate b => exact absurd rfl (hupdate b)
  | _ => rfl

/-- CRC_READ, the one operation left whose response depends on ACC, leaves ACC alone. -/
theorem responseTo_accAfter (a : Word) (p : Params) :
    responseTo i (accAfter i a) p = responseTo i a p := by
  cases i with
  | crcUpdate b => exact absurd rfl (hupdate b)
  | _ => rfl

theorem stateAfter_stateAfter (s : State) :
    stateAfter i (stateAfter i s) =
      { stateAfter i s with
        responses := s.responses ++ [responseTo i s.acc s.params, responseTo i s.acc s.params] } := by
  apply State.eq_of_fields
  · exact accAfter_accAfter hupdate s.acc
  · simp [responseTo_accAfter hupdate]
  · rfl
  · rfl

end NotUpdate

/-- Settles O46: the second issue finds the same parameters, so its operand fits as well, and
`stateAfter_stateAfter` gives its effect. CRC_UPDATE of 0x01 from reset is not idempotent: each issue
folds one more byte (R52). -/
theorem allButUpdateIdempotent : Obligations.AllButUpdateIdempotent := by
  refine ⟨fun i s t hupdate h => ?_, 0x01#8, State.reset, _, _, rfl, rfl, by decide +kernel⟩
  obtain ⟨hfits, rfl⟩ := (exec_next_iff i s t).mp h
  refine ⟨responseTo i s.acc s.params, stateAfter_responses i s, ?_⟩
  rw [← stateAfter_stateAfter hupdate]
  exact (exec_next_iff i _ _).mpr ⟨hfits, rfl⟩

end Sys2Proof.Machine
end

section
/-!
PROOF. The decoder, one equation for each row of the operation map (30_encoding.md R77 to R79), and
what it keeps of a request.
-/

namespace Sys2Proof.Machine

/-- 30_encoding.md R78: the reserved opcs are those that no row of the operation map has. -/
theorem reservedOpc_iff_notMem (opc : Byte) :
    ReservedOpc opc ↔ opc ∉ [0x01#8, 0x02#8, 0x03#8, 0x04#8, 0x05#8, 0x06#8, 0x07#8] := by
  simp only [ReservedOpc, List.mem_cons, List.not_mem_nil, or_false]
  bv_omega

theorem opc_cases (opc : Byte) :
    opc = 0x01#8 ∨ opc = 0x02#8 ∨ opc = 0x03#8 ∨ opc = 0x04#8 ∨ opc = 0x05#8 ∨ opc = 0x06#8 ∨
      opc = 0x07#8 ∨ ReservedOpc opc := by
  have h := Decidable.em (opc ∈ [0x01#8, 0x02#8, 0x03#8, 0x04#8, 0x05#8, 0x06#8, 0x07#8])
  rw [← reservedOpc_iff_notMem] at h
  simpa only [List.mem_cons, List.not_mem_nil, or_false, or_assoc] using h

section Rows

variable {r : Request}

theorem decode_of_opc_crcInit (h : r.opc = 0x01#8) : decode r = .crcInit := by
  rw [decode, h]; rfl

theorem decode_of_opc_crcUpdate (h : r.opc = 0x02#8) : decode r = .crcUpdate r.b := by
  rw [decode, h]; rfl

theorem decode_of_opc_crcRead (h : r.opc = 0x03#8) : decode r = .crcRead := by
  rw [decode, h]; rfl

theorem decode_of_opc_crcCompute (h : r.opc = 0x04#8) : decode r = .crcCompute r.buf := by
  rw [decode, h]; rfl

theorem decode_of_opc_frameEncode (h : r.opc = 0x05#8) : decode r = .frameEncode r.cmd r.buf := by
  rw [decode, h]; rfl

theorem decode_of_opc_frameDecode (h : r.opc = 0x06#8) : decode r = .frameDecode r.buf := by
  rw [decode, h]; rfl

theorem decode_of_opc_frameCheck (h : r.opc = 0x07#8) : decode r = .frameCheck r.buf := by
  rw [decode, h]; rfl

theorem decode_of_reservedOpc (h : ReservedOpc r.opc) : decode r = .reserved r.opc := by
  rw [decode, Laws.selectOperation_of_reserved r.opc.toFin h]

end Rows

/-- No two operations share an opc: the instruction decoded from a request tells the request's opc. -/
theorem encode_decode_opc (r : Request) : (encode (decode r)).opc = r.opc := by
  obtain h | h | h | h | h | h | h | h := opc_cases r.opc
  · rw [decode_of_opc_crcInit h, h]; rfl
  · rw [decode_of_opc_crcUpdate h, h]; rfl
  · rw [decode_of_opc_crcRead h, h]; rfl
  · rw [decode_of_opc_crcCompute h, h]; rfl
  · rw [decode_of_opc_frameEncode h, h]; rfl
  · rw [decode_of_opc_frameDecode h, h]; rfl
  · rw [decode_of_opc_frameCheck h, h]; rfl
  · rw [decode_of_reservedOpc h]; rfl

/-- 30_encoding.md R73, R79: only the fields that the operation reads take part in decoding. -/
theorem decode_congr {r r' : Request} (hopc : r.opc = r'.opc)
    (hb : r.opc = 0x02#8 → r.b = r'.b)
    (hcmd : r.opc = 0x05#8 → r.cmd = r'.cmd)
    (hbuf : r.opc = 0x04#8 ∨ r.opc = 0x05#8 ∨ r.opc = 0x06#8 ∨ r.opc = 0x07#8 → r.buf = r'.buf) :
    decode r = decode r' := by
  obtain h | h | h | h | h | h | h | h := opc_cases r.opc <;> have h' := hopc ▸ h
  · rw [decode_of_opc_crcInit h, decode_of_opc_crcInit h']
  · rw [decode_of_opc_crcUpdate h, decode_of_opc_crcUpdate h', hb h]
  · rw [decode_of_opc_crcRead h, decode_of_opc_crcRead h']
  · rw [decode_of_opc_crcCompute h, decode_of_opc_crcCompute h', hbuf (by simp [h])]
  · rw [decode_of_opc_frameEncode h, decode_of_opc_frameEncode h', hcmd h, hbuf (by simp [h])]
  · rw [decode_of_opc_frameDecode h, decode_of_opc_frameDecode h', hbuf (by simp [h])]
  · rw [decode_of_opc_frameCheck h, decode_of_opc_frameCheck h', hbuf (by simp [h])]
  · rw [decode_of_reservedOpc h, decode_of_reservedOpc h', hopc]

end Sys2Proof.Machine
end

section
/-!
PROOF. Which operations write ACC, which field of a response each operation sets (30_encoding.md R74),
and which statuses each can raise (R76; 42_frame_decode.md R142, R144).
-/

namespace Sys2Proof.Machine

/-- 10_state.md R26: CRC_INIT and CRC_UPDATE are the only writers of ACC. -/
theorem accAfter_eq_self {i : Instr} (hinit : i ≠ .crcInit) (hupdate : ∀ b, i ≠ .crcUpdate b)
    (a : Word) : accAfter i a = a := by
  cases i with
  | crcInit => exact absurd rfl hinit
  | crcUpdate b => exact absurd rfl (hupdate b)
  | _ => rfl

theorem frameEncodeResponse_cases (p : Params) (cmd : Byte) (buf : List Byte) :
    (249 < buf.length ∧ frameEncodeResponse p cmd buf = .ofStatus .frameTooLarge) ∨
      frameEncodeResponse p cmd buf = .ofBytes (buildFrame p cmd buf) := by
  by_cases h : maxData < buf.length
  · exact .inl ⟨h, if_pos h⟩
  · exact .inr (if_neg h)

theorem frameDecodeResponse_cases (p : Params) (buf : List Byte) :
    frameDecodeResponse p buf = .ofStatus (decodeStatus p.strictDecode buf) ∨
      (decodeStatus p.strictDecode buf = .ok ∧ frameDecodeResponse p buf = .ofFrame (split buf)) := by
  by_cases h : decodeStatus p.strictDecode buf = .ok
  · exact .inr ⟨h, if_pos h⟩
  · exact .inl (if_neg h)

theorem frameDecodeResponse_status (p : Params) (buf : List Byte) :
    (frameDecodeResponse p buf).status = decodeStatus p.strictDecode buf := by
  obtain h | ⟨hok, h⟩ := frameDecodeResponse_cases p buf
  · rw [h]; rfl
  · rw [h, hok]; rfl

theorem frameEncodeResponse_sets_only_bytes (p : Params) (cmd : Byte) (buf : List Byte) :
    (frameEncodeResponse p cmd buf).value = none ∧ (frameEncodeResponse p cmd buf).frame = none := by
  obtain ⟨-, h⟩ | h := frameEncodeResponse_cases p cmd buf <;> rw [h] <;> exact ⟨rfl, rfl⟩

theorem frameDecodeResponse_sets_only_frame (p : Params) (buf : List Byte) :
    (frameDecodeResponse p buf).value = none ∧ (frameDecodeResponse p buf).bytes = none := by
  obtain h | ⟨-, h⟩ := frameDecodeResponse_cases p buf <;> rw [h] <;> exact ⟨rfl, rfl⟩

theorem responseTo_value_setter {i : Instr} {a : Word} {p : Params}
    (h : (responseTo i a p).value ≠ none) : i = .crcRead ∨ ∃ buf, i = .crcCompute buf := by
  cases i with
  | crcRead => exact .inl rfl
  | crcCompute buf => exact .inr ⟨buf, rfl⟩
  | frameEncode cmd buf => exact absurd (frameEncodeResponse_sets_only_bytes p cmd buf).left h
  | frameDecode buf => exact absurd (frameDecodeResponse_sets_only_frame p buf).left h
  | _ => exact absurd rfl h

theorem responseTo_bytes_setter {i : Instr} {a : Word} {p : Params}
    (h : (responseTo i a p).bytes ≠ none) : ∃ cmd buf, i = .frameEncode cmd buf := by
  cases i with
  | frameEncode cmd buf => exact ⟨cmd, buf, rfl⟩
  | frameDecode buf => exact absurd (frameDecodeResponse_sets_only_frame p buf).right h
  | _ => exact absurd rfl h

theorem responseTo_frame_setter {i : Instr} {a : Word} {p : Params}
    (h : (responseTo i a p).frame ≠ none) : ∃ buf, i = .frameDecode buf := by
  cases i with
  | frameDecode buf => exact ⟨buf, rfl⟩
  | frameEncode cmd buf => exact absurd (frameEncodeResponse_sets_only_bytes p cmd buf).right h
  | _ => exact absurd rfl h

/-- 42_frame_decode.md R144: SHORT_FRAME is the verdict on short inputs and on no others, and the
verdicts on the others are OK and those of the three checks that follow. -/
theorem strictCheck_cases (raw : List Byte) :
    (raw.length < 4 ∧ strictCheck raw = .shortFrame) ∨
      (4 ≤ raw.length ∧
        strictCheck raw ∈ [Status.ok, .noChecksum, .lengthMismatch, .checksumMismatch]) := by
  by_cases h4 : raw.length < 4
  · exact .inl ⟨h4, strictCheck_short h4⟩
  · refine .inr ⟨by omega, ?_⟩
    by_cases h6 : raw.length < 6
    · simp [strictCheck_noChecksum (by omega) h6]
    · rw [strictCheck_of_le (by omega)]
      split_ifs <;> simp

/-- 42_frame_decode.md R142: FRAME_DECODE reports what the strict check does on a short input and in
strict mode, and OK otherwise. -/
theorem decodeStatus_cases (strict : Bool) (raw : List Byte) :
    (decodeStatus strict raw = strictCheck raw ∧ (raw.length < 4 ∨ strict = true)) ∨
      decodeStatus strict raw = .ok := by
  by_cases h4 : raw.length < 4
  · exact .inl ⟨(decodeStatus_short h4).trans (strictCheck_short h4).symm, .inl h4⟩
  · rw [decodeStatus_of_le (by omega)]
    cases strict with
    | false => exact .inr rfl
    | true => exact .inl ⟨rfl, .inr rfl⟩

/-- The condition of 30_encoding.md R76 under which an operation can raise a status. -/
def CanRaise (p : Params) (i : Instr) : Status → Prop
  | .ok => True
  | .shortFrame => ∃ buf : List Byte, buf.length < 4 ∧ (i = .frameDecode buf ∨ i = .frameCheck buf)
  | .frameTooLarge => ∃ cmd buf, i = .frameEncode cmd buf ∧ 249 < buf.length
  | .noChecksum | .lengthMismatch | .checksumMismatch =>
    ∃ buf : List Byte, 4 ≤ buf.length ∧
      (i = .frameCheck buf ∨ (i = .frameDecode buf ∧ p.strictDecode = true))
  | .illegalOperation => ∃ opc, i = .reserved opc

/-- The strict check's verdict is one that any operation running the check on its input can raise. -/
theorem canRaise_strictCheck {p : Params} {i : Instr} {buf : List Byte}
    (hi : i = .frameCheck buf ∨ (i = .frameDecode buf ∧ (buf.length < 4 ∨ p.strictDecode = true))) :
    CanRaise p i (strictCheck buf) := by
  obtain ⟨hlen, hst⟩ | ⟨hlen, hst⟩ := strictCheck_cases buf
  · rw [hst]
    exact ⟨buf, hlen, hi.symm.imp_left And.left⟩
  · have hstrict : ∃ buf : List Byte, 4 ≤ buf.length ∧
        (i = .frameCheck buf ∨ (i = .frameDecode buf ∧ p.strictDecode = true)) :=
      ⟨buf, hlen, hi.imp_right (And.imp_right (Or.resolve_left · (by omega)))⟩
    simp only [List.mem_cons, List.not_mem_nil, or_false] at hst
    obtain hst | hst | hst | hst := hst <;> rw [hst]
    · trivial
    all_goals exact hstrict

theorem canRaise_responseTo (i : Instr) (a : Word) (p : Params) :
    CanRaise p i (responseTo i a p).status := by
  cases i with
  | reserved opc => exact ⟨opc, rfl⟩
  | frameEncode cmd buf =>
    obtain ⟨hlen, hr⟩ | hr := frameEncodeResponse_cases p cmd buf <;> rw [responseTo, hr]
    · exact ⟨cmd, buf, rfl, hlen⟩
    · trivial
  | frameCheck buf => exact canRaise_strictCheck (.inl rfl)
  | frameDecode buf =>
    rw [responseTo, frameDecodeResponse_status]
    obtain ⟨hst, hwhen⟩ | hst := decodeStatus_cases p.strictDecode buf <;> rw [hst]
    · exact canRaise_strictCheck (.inr ⟨rfl, hwhen⟩)
    · trivial
  | _ => trivial

end Sys2Proof.Machine
end

section
/-!
PROOF. The statements of 30_encoding.md.
-/

namespace Sys2Proof.Machine

/-- Settles O7: one decoder equation for each opc; and an operation that writes ACC tells its opc, which
is 0x01 or 0x02. -/
theorem opcSelectsOperation : Obligations.OpcSelectsOperation := by
  refine fun r => ⟨decode_of_opc_crcInit, decode_of_opc_crcUpdate, decode_of_opc_crcRead,
    decode_of_opc_crcCompute, decode_of_opc_frameEncode, decode_of_opc_frameDecode,
    decode_of_opc_frameCheck, fun s t h h1 h2 => ?_⟩
  obtain ⟨-, rfl⟩ := (exec_next_iff (decode r) s t).mp h
  have hopc := encode_decode_opc r
  refine accAfter_eq_self (fun hi => h1 ?_) (fun b hi => h2 ?_) s.acc
  · rw [← hopc, hi]; rfl
  · rw [← hopc, hi]; rfl

/-- Settles O8: every byte is at most 0xFF, so the range is `ReservedOpc`; a request with such an opc
decodes to RESERVED, which only responds. -/
theorem reservedOpcIsIllegalOperation : Obligations.ReservedOpcIsIllegalOperation := by
  refine ⟨fun opc => ?_, fun opc s => rfl, fun s r rest hport hopc => ?_⟩
  · rw [and_iff_left (show opc ≤ 0xFF#8 by bv_omega)]
    exact reservedOpc_iff_notMem opc
  · rw [step_request hport, decode_of_reservedOpc hopc]
    rfl

/-- Settles O10: a step sees of a request only the instruction it decodes to. -/
theorem unreadFieldsAreIgnored : Obligations.UnreadFieldsAreIgnored := by
  intro s r r' rest hopc hb hcmd hbuf
  rw [step_request rfl, step_request rfl, decode_congr hopc hb hcmd hbuf]

/-- Settles O11: the one response added is `responseTo`, whose status the operation can raise. -/
theorem statusCodesAndRaisers : Obligations.StatusCodesAndRaisers := by
  refine ⟨rfl, rfl, rfl, rfl, rfl, rfl, rfl, fun st => by cases st <;> decide, fun i s t h => ?_⟩
  obtain ⟨-, rfl⟩ := (exec_next_iff i s t).mp h
  have hraise := canRaise_responseTo i s.acc s.params
  refine ⟨_, stateAfter_responses i s, fun hst => ?_, fun hst => ?_, fun hst => ?_, fun hst => ?_⟩
  · rwa [hst] at hraise
  · rwa [hst] at hraise
  · obtain hst | hst | hst := hst <;> rwa [hst] at hraise
  · rwa [hst] at hraise

/-- Settles O12: the one response added is `responseTo`. -/
theorem responseFieldsByOperation : Obligations.ResponseFieldsByOperation := by
  intro i s t h
  obtain ⟨-, rfl⟩ := (exec_next_iff i s t).mp h
  exact ⟨_, stateAfter_responses i s, responseTo_value_setter, responseTo_bytes_setter,
    responseTo_frame_setter⟩

/-- Settles O13: the expansions are the definition's; the run is CRC_INIT's step and then the run of the
updates from the accumulator it leaves. -/
theorem pseudoInstructionsExpand : Obligations.PseudoInstructionsExpand := by
  refine ⟨fun _ _ _ => rfl, fun _ => rfl, fun codes b bs => ?_, fun codes bs s => ?_⟩
  · simp only [Pseudo.expand, List.map_append, List.map_cons, List.map_nil, List.cons_append]
  · rw [Pseudo.expand, run_issue_crcInit, run_crcUpdates]
    rw [pushResponse_responses, writeAcc_responses, List.append_assoc]
    rfl

end Sys2Proof.Machine
end

section
/-!
PROOF. The CRC iteration as a function on words: eight uses of one linear, injective shift, which is also
a shift of numbers (40_crc.md R100, R108 to R110).
-/

namespace Sys2Proof.Machine

theorem crcShifts_eq_iterate (k : Nat) (a : Word) : crcShifts k a = crcShift^[k] a := by
  induction k generalizing a with
  | zero => rfl
  | succ k ih => rw [crcShifts_succ, ih, Function.iterate_succ_apply]

theorem crcShift_zero : crcShift 0#16 = 0#16 := rfl

theorem crcShifts_of_zero (k : Nat) : crcShifts k 0#16 = 0#16 := by
  rw [crcShifts_eq_iterate, Function.iterate_fixed crcShift_zero]

/-- Two odd accumulators take in POLY twice, which cancels; one takes it in once. -/
theorem crcShift_xor (a b : Word) : crcShift (a ^^^ b) = crcShift a ^^^ crcShift b := by
  have hlow : (a ^^^ b).getLsbD 0 = (a.getLsbD 0 ^^ b.getLsbD 0) := BitVec.getLsbD_xor
  cases ha : a.getLsbD 0 <;> cases hb : b.getLsbD 0 <;> rw [ha, hb] at hlow
  · rw [crcShift_of_even hlow, crcShift_of_even ha, crcShift_of_even hb, BitVec.ushiftRight_xor_distrib]
  · rw [crcShift_of_odd hlow, crcShift_of_even ha, crcShift_of_odd hb, BitVec.ushiftRight_xor_distrib,
      BitVec.xor_assoc]
  · rw [crcShift_of_odd hlow, crcShift_of_odd ha, crcShift_of_even hb, BitVec.ushiftRight_xor_distrib]
    ac_rfl
  · rw [crcShift_of_even hlow, crcShift_of_odd ha, crcShift_of_odd hb, BitVec.ushiftRight_xor_distrib]
    calc a >>> 1 ^^^ b >>> 1 = (a >>> 1 ^^^ b >>> 1) ^^^ (poly ^^^ poly) := by
          rw [BitVec.xor_self, BitVec.xor_zero]
      _ = (a >>> 1 ^^^ poly) ^^^ (b >>> 1 ^^^ poly) := by ac_rfl

theorem crcShifts_xor (k : Nat) (a b : Word) :
    crcShifts k (a ^^^ b) = crcShifts k a ^^^ crcShifts k b := by
  induction k generalizing a b with
  | zero => rfl
  | succ k ih => simp only [crcShifts_succ, crcShift_xor, ih]

/-- POLY has bit 15 set, and a shift clears it: bit 15 after an iteration is bit 0 before it. -/
theorem crcShift_getLsbD_last (a : Word) : (crcShift a).getLsbD 15 = a.getLsbD 0 := by
  cases h : a.getLsbD 0
  · rw [crcShift_of_even h]; simp
  · rw [crcShift_of_odd h]; simp [poly]

/-- Bit 15 after an iteration tells whether POLY was taken in, and the other fifteen bits are then the
shift's. -/
theorem crcShift_injective : Function.Injective crcShift := by
  intro a b h
  have hlow : a.getLsbD 0 = b.getLsbD 0 := by
    rw [← crcShift_getLsbD_last, ← crcShift_getLsbD_last, h]
  have hshift : a >>> 1 = b >>> 1 := by
    cases ha : a.getLsbD 0 with
    | false => rwa [crcShift_of_even ha, crcShift_of_even (hlow ▸ ha)] at h
    | true => rwa [crcShift_of_odd ha, crcShift_of_odd (hlow ▸ ha), BitVec.xor_left_inj] at h
  apply BitVec.eq_of_getLsbD_eq
  rintro (_ | i) _
  · exact hlow
  · have hbit := congrArg (·.getLsbD i) hshift
    simpa only [BitVec.getLsbD_ushiftRight, Nat.add_comm 1 i] using hbit

theorem crcShifts_injective (k : Nat) : Function.Injective (crcShifts k) := by
  rw [show crcShifts k = crcShift^[k] from funext (crcShifts_eq_iterate k)]
  exact crcShift_injective.iterate k

/-- Iterations that find only clear bits only shift. -/
theorem crcShifts_of_low_bits_clear {k : Nat} {a : Word} (h : ∀ i < k, a.getLsbD i = false) :
    crcShifts k a = a >>> k := by
  induction k generalizing a with
  | zero => rfl
  | succ k ih =>
    have hrest : ∀ i < k, (a >>> 1).getLsbD i = false := fun i hi => by
      rw [BitVec.getLsbD_ushiftRight]; exact h (1 + i) (by omega)
    rw [crcShifts_succ, crcShift_of_even (h 0 k.succ_pos), ih hrest, ← BitVec.shiftRight_add,
      Nat.add_comm]

/-- One iteration of R100 on a number. -/
def crcShiftNat (a : Nat) : Nat := if a % 2 = 1 then (a / 2) ^^^ 0x8408 else a / 2

theorem crcShift_toNat (a : Word) : (crcShift a).toNat = crcShiftNat a.toNat := by
  have hlow : a.getLsbD 0 = decide (a.toNat % 2 = 1) := by simp [BitVec.getLsbD]
  by_cases h : a.toNat % 2 = 1
  · rw [crcShift_of_odd (by simpa [h] using hlow), crcShiftNat, if_pos h]
    simp [poly, Nat.shiftRight_one]
  · rw [crcShift_of_even (by simpa [h] using hlow), crcShiftNat, if_neg h]
    simp [Nat.shiftRight_one]

theorem crcShifts_toNat (k : Nat) (a : Word) :
    (crcShifts k a).toNat = crcShiftNat^[k] a.toNat := by
  rw [crcShifts_eq_iterate]
  exact Function.Semiconj.iterate_right (f := BitVec.toNat) crcShift_toNat k a

end Sys2Proof.Machine
end

section
/-!
PROOF. The laws of `crc16_byte` and of the CRC of a sequence (40_crc.md R101, R106 to R110).
-/

namespace Sys2Proof.Machine

theorem zext16_xor (b b' : Byte) : zext16 (b ^^^ b') = zext16 b ^^^ zext16 b' := BitVec.setWidth_xor

theorem zext16_injective : Function.Injective zext16 := fun b b' h => by
  have hnat := congrArg BitVec.toNat h
  exact BitVec.eq_of_toNat_eq (by simp [zext16] at hnat; omega)

/-- 20_memory.md R44: a value is the join of its two checksum bytes. -/
theorem joinBytes_lowByte_highByte (v : Word) : joinBytes (lowByte v) (highByte v) = v := by
  apply BitVec.eq_of_getLsbD_eq
  intro i hi
  by_cases h : i < 8
  · simp [joinBytes, zext16, lowByte, highByte, h, hi]
  · have hhigh : i - 8 < 8 := by omega
    have hindex : 8 + (i - 8) = i := by omega
    simp [joinBytes, zext16, lowByte, highByte, h, hhigh, hindex, hi]

theorem crc16Byte_zero_zero : crc16Byte 0#16 0#8 = 0#16 := rfl

/-- XOR with the low byte clears the bits that the eight iterations test. -/
theorem crc16Byte_lowByte (a : Word) : crc16Byte a (lowByte a) = zext16 (highByte a) := by
  have hclear : ∀ i < 8, (a ^^^ zext16 (lowByte a)).getLsbD i = false := fun i hi => by
    simp [zext16, lowByte, hi]; omega
  rw [crc16Byte, crcShifts_of_low_bits_clear hclear]
  apply BitVec.eq_of_getLsbD_eq
  intro i hi
  by_cases h : i < 8
  · simp [zext16, lowByte, highByte, h, hi]
  · simp [zext16, lowByte, highByte, h, BitVec.getLsbD_of_ge a (8 + i) (by omega)]

/-- A byte folded into an accumulator that holds it leaves nothing. -/
theorem crc16Byte_zext16_self (b : Byte) : crc16Byte (zext16 b) b = 0#16 := by
  rw [crc16Byte, BitVec.xor_self, crcShifts_of_zero]

theorem crc16Byte_xor (a a' : Word) (b b' : Byte) :
    crc16Byte (a ^^^ a') (b ^^^ b') = crc16Byte a b ^^^ crc16Byte a' b' := by
  rw [crc16Byte, crc16Byte, crc16Byte, ← crcShifts_xor, zext16_xor]
  ac_rfl

theorem crc16Byte_injective (a : Word) : Function.Injective (crc16Byte a) := fun _ _ h =>
  zext16_injective ((BitVec.xor_right_inj a).mp (crcShifts_injective 8 h))

/-- 40_crc.md R109, from any two accumulators. -/
theorem crcFold_zipWith_xor (a a' : Word) {s t : List Byte} (h : s.length = t.length) :
    crcFold (a ^^^ a') (List.zipWith (· ^^^ ·) s t) = crcFold a s ^^^ crcFold a' t := by
  induction s generalizing t a a' with
  | nil => cases t with
    | nil => rfl
    | cons c t => cases h
  | cons b s ih => cases t with
    | nil => cases h
    | cons c t =>
      rw [List.zipWith_cons_cons, crcFold_cons, crc16Byte_xor, ih _ _ (Nat.succ.inj h)]
      rfl

/-- 40_crc.md R108, from any accumulator: its own two bytes bring it to zero. -/
theorem crcFold_own_bytes (c : Word) : crcFold c [lowByte c, highByte c] = 0#16 := by
  rw [crcFold_cons, crcFold_cons, crc16Byte_lowByte, crc16Byte_zext16_self, crcFold_nil]

theorem crc16_append (s t : List Byte) : crc16 (s ++ t) = crcFold (crc16 s) t :=
  crcFold_append _ s t

theorem crc16_appendChecksum (s : List Byte) : crc16 (appendChecksum s) = 0#16 := by
  rw [appendChecksum, crc16_append, crcFold_own_bytes]

theorem crc16_zero_cons (s : List Byte) : crc16 (0#8 :: s) = crc16 s := by
  rw [crc16, crcFold_cons]; rfl

theorem crc16_replicate_zero_append (k : Nat) (s : List Byte) :
    crc16 (List.replicate k 0#8 ++ s) = crc16 s := by
  induction k with
  | zero => rfl
  | succ k ih => rw [List.replicate_succ, List.cons_append, crc16_zero_cons, ih]

end Sys2Proof.Machine
end

section
/-!
PROOF. CRC_READ in a run, and the frame in FRAME_ENCODE's response (40_crc.md R104; 41_frame_encode.md
R120).
-/

namespace Sys2Proof.Machine

theorem exec_crcRead (s : State) : exec .crcRead s = .next (pushResponse (.ofValue s.acc) s) := rfl

theorem run_issue_crcRead (n : Nat) (is : List Instr) (s : State) :
    run (n + 1) (issue (.crcRead :: is) s) = run n (issue is (pushResponse (.ofValue s.acc) s)) := by
  apply run_succ_next
  rw [step_issue_cons rfl, exec_crcRead]
  rfl

theorem frameEncodeResponse_bytes {p : Params} {cmd : Byte} {buf f : List Byte}
    (h : (frameEncodeResponse p cmd buf).bytes = some f) : f = buildFrame p cmd buf := by
  obtain ⟨-, hr⟩ | hr := frameEncodeResponse_cases p cmd buf <;> rw [hr] at h
  · cases h
  · exact (Option.some.inj h).symm

end Sys2Proof.Machine
end

section
/-!
PROOF. The statements of 40_crc.md.
-/

namespace Sys2Proof.Machine

/-- Settles O14: what a CRC_INIT leaves in ACC is a constant, the value that reset gives ACC too (R102). -/
theorem crcInitSetsAccToZero : Obligations.CrcInitSetsAccToZero := by
  refine ⟨exec_crcInit, fun s t u h h' => ?_, fun t h => ?_⟩
  · obtain ⟨-, rfl⟩ := (exec_next_iff _ s t).mp h
    obtain ⟨-, rfl⟩ := (exec_next_iff _ _ u).mp h'
    rfl
  · obtain ⟨-, rfl⟩ := (exec_next_iff _ _ t).mp h
    rfl

/-- Settles O15: the byte equal to ACC's low byte clears it, and the iterations shift the high byte down
(R103). -/
theorem crcUpdateFoldsOneByte : Obligations.CrcUpdateFoldsOneByte :=
  ⟨fun s b => exec_crcUpdate b s, crc16Byte_zero_zero, crc16Byte_lowByte, by decide, by decide,
    by decide⟩

/-- Settles O16: the operation only responds, with ACC, which reset leaves at 0x0000 (R104). -/
theorem crcReadReturnsAcc : Obligations.CrcReadReturnsAcc := by
  refine ⟨exec_crcRead, joinBytes_lowByte_highByte, fun t h => ?_, by decide, by decide, by decide⟩
  obtain ⟨-, rfl⟩ := (exec_next_iff _ _ t).mp h
  rfl

/-- Settles O17: the capacity decides between the answer and the refusal; the corner cases are the laws
of leading zero bytes and of the residue (R105). -/
theorem crcComputeReturnsCrc : Obligations.CrcComputeReturnsCrc := by
  refine ⟨fun s buf h => ?_, fun s buf h => ?_, rfl, crc16_zero_cons, crc16_appendChecksum, by decide⟩
  · rw [exec_crcCompute, withinCapacity_of_le h]
    rfl
  · rw [exec_crcCompute, withinCapacity_of_lt h]

/-- Settles O18: folding over a range of eight with its index unused is the eighth iterate, and each
iteration on words is the one on their numbers (R100). -/
theorem crcByteIsEightHalvings : Obligations.CrcByteIsEightHalvings := by
  intro acc b
  have hstart : (acc ^^^ zext16 b).toNat = acc.toNat ^^^ b.toNat := by
    rw [zext16, BitVec.toNat_xor, BitVec.toNat_setWidth_of_le (by decide)]
  rw [crc16Byte, crcShifts_toNat, hstart]
  exact (List.foldl_const crcShiftNat _ (List.range 8)).symm

/-- Settles O19: the elements at the indices in order are the sequence (R101). -/
theorem crcFoldsBytesInIndexOrder : Obligations.CrcFoldsBytesInIndexOrder := by
  intro s
  calc crc16 s = ((List.finRange s.length).map (s[·.1])).foldl crc16Byte 0x0000#16 := by
        rw [List.map_getElem_finRange]; rfl
    _ = _ := List.foldl_map

/-- Settles O20: CRC_INIT's step, then the run of the updates, then CRC_READ's step (R106). -/
theorem streamingEqualsOneShot : Obligations.StreamingEqualsOneShot := by
  refine ⟨fun st s => ?_, fun st t => run_crcUpdates t st, crc16_append⟩
  rw [List.append_assoc, List.singleton_append, run_issue_crcInit, run_issue_crcUpdates,
    run_issue_crcRead, run_zero, issue_nil]
  rw [pushResponse_responses, writeAcc_responses, List.append_assoc st.responses [_]]
  rfl

/-- Settles O21 (R107). -/
theorem leadingZeroBytesInvisible : Obligations.LeadingZeroBytesInvisible :=
  ⟨crc16Byte_zero_zero, crc16_replicate_zero_append⟩

/-- Settles O22: FRAME_ENCODE's frame is a body with its own checksum after it, so the law for sequences
covers it (R108). -/
theorem residueIsZero : Obligations.ResidueIsZero := by
  refine ⟨fun s c hc => hc ▸ crc16_appendChecksum s, fun s t cmd buf f h hres => ?_⟩
  obtain ⟨-, rfl⟩ := (exec_next_iff _ s t).mp h
  have hresponse := List.singleton_inj.mp (List.append_cancel_left hres)
  rw [frameEncodeResponse_bytes (congrArg Response.bytes hresponse), buildFrame,
    crc16_appendChecksum]

/-- Settles O23: the fold is linear from any two accumulators, and both start from 0x0000 (R109). -/
theorem crcIsLinear : Obligations.CrcIsLinear := fun _ _ h =>
  crcFold_zipWith_xor crcInitValue crcInitValue h

/-- Settles O24: no iteration loses information, so neither do eight of them on a byte (R110). -/
theorem singleByteCrcsDistinct : Obligations.SingleByteCrcsDistinct :=
  ⟨fun _ _ h => crc16Byte_injective 0#16 h, by decide⟩

end Sys2Proof.Machine
end

section
/-!
PROOF. The frame FRAME_ENCODE builds, part by part (41_frame_encode.md R120 to R123), and the verdict of
the strict check on it (42_frame_decode.md R144).
-/

namespace Sys2Proof.Machine

/-- What a checksum covers is all but the last two bytes. -/
theorem appendChecksum_take_covered (body : List Byte) :
    (appendChecksum body).take ((appendChecksum body).length - 2) = body := by
  rw [appendChecksum_length, Nat.add_sub_cancel, appendChecksum, List.take_left]

theorem appendChecksum_getElem?_low (body : List Byte) :
    (appendChecksum body)[(appendChecksum body).length - 2]? = some (lowByte (crc16 body)) := by
  rw [appendChecksum_length, Nat.add_sub_cancel, appendChecksum,
    List.getElem?_append_right (Nat.le_refl _), Nat.sub_self]
  rfl

theorem appendChecksum_getElem?_high (body : List Byte) :
    (appendChecksum body)[(appendChecksum body).length - 1]? = some (highByte (crc16 body)) := by
  rw [appendChecksum_length, Nat.add_sub_assoc (by decide), appendChecksum,
    List.getElem?_append_right (Nat.le_add_right _ _), Nat.add_sub_cancel_left]
  rfl

theorem checksumOf_appendChecksum {body : List Byte} (h : 4 ≤ body.length) :
    checksumOf (appendChecksum body) = some (crc16 body) := by
  rw [appendChecksum, checksumOf_append _ _ h, joinBytes_lowByte_highByte]

/-- 41_frame_encode.md R121: the length of a frame of at most 249 data bytes fits in its length byte. -/
theorem buildFrame_lengthByte {p : Params} {cmd : Byte} {data : List Byte} (h : data.length ≤ 249) :
    (buildFrame p cmd data)[2]?.map BitVec.toNat = some (data.length + 6) := by
  have hbyte : (buildFrame p cmd data)[2]? = some (BitVec.ofNat 8 (data.length + 6)) := rfl
  have hfits : data.length + 6 < 2 ^ 8 := by omega
  rw [hbyte, Option.map_some, BitVec.toNat_ofNat, Nat.mod_eq_of_lt hfits]

/-- 00_scope.md R14. -/
theorem buildFrame_length_le_maxFrame {p : Params} {cmd : Byte} {data : List Byte}
    (h : data.length ≤ 249) : (buildFrame p cmd data).length ≤ maxFrame := by
  rw [buildFrame_length, maxFrame_eq_maxData_add_overhead]
  exact Nat.add_le_add_right h overhead

/-- 41_frame_encode.md R122: the length byte is the frame's length, and the embedded checksum is the CRC
of the covered bytes. -/
theorem strictCheck_buildFrame {p : Params} {cmd : Byte} {data : List Byte} (h : data.length ≤ 249) :
    strictCheck (buildFrame p cmd data) = .ok := by
  have hlen : (buildFrame p cmd data).length = data.length + 6 := buildFrame_length p cmd data
  have hsum : some (crc16 ((buildFrame p cmd data).take ((buildFrame p cmd data).length - 2))) =
      checksumOf (buildFrame p cmd data) := by
    have hbody : 4 ≤ (frameBody p cmd data).length := by rw [frameBody_length]; omega
    rw [buildFrame, appendChecksum_take_covered, checksumOf_appendChecksum hbody]
  rw [strictCheck_of_le (by omega), if_neg (not_not.mpr (hlen ▸ buildFrame_lengthByte h)),
    if_neg (not_not.mpr hsum)]

/-- 41_frame_encode.md R124: of the parameters a frame holds only the sync and the address byte. -/
theorem buildFrame_congr {p p' : Params} (hsync : p.syncByte = p'.syncByte)
    (haddr : p.addrByte = p'.addrByte) (cmd : Byte) (data : List Byte) :
    buildFrame p cmd data = buildFrame p' cmd data := by
  simp only [buildFrame, frameBody, hsync, haddr]

end Sys2Proof.Machine
end

section
/-!
PROOF. Which response FRAME_ENCODE gives, and what an answered frame says about the request
(41_frame_encode.md R120).
-/

namespace Sys2Proof.Machine

theorem frameEncodeResponse_of_lt {buf : List Byte} (h : 249 < buf.length) (p : Params) (cmd : Byte) :
    frameEncodeResponse p cmd buf = .ofStatus .frameTooLarge := if_pos h

theorem frameEncodeResponse_of_le {buf : List Byte} (h : buf.length ≤ 249) (p : Params) (cmd : Byte) :
    frameEncodeResponse p cmd buf = .ofBytes (buildFrame p cmd buf) := if_neg (Nat.not_lt.mpr h)

theorem frameEncodeResponse_congr {p p' : Params} (hsync : p.syncByte = p'.syncByte)
    (haddr : p.addrByte = p'.addrByte) (cmd : Byte) (buf : List Byte) :
    frameEncodeResponse p cmd buf = frameEncodeResponse p' cmd buf := by
  simp only [frameEncodeResponse, buildFrame_congr hsync haddr]

theorem frameEncodeResponse_eq_ofBytes {p : Params} {cmd : Byte} {buf f : List Byte}
    (h : frameEncodeResponse p cmd buf = .ofBytes f) :
    buf.length ≤ 249 ∧ f = buildFrame p cmd buf := by
  refine ⟨Nat.not_lt.mp fun hlarge => ?_, frameEncodeResponse_bytes (congrArg Response.bytes h)⟩
  rw [frameEncodeResponse_of_lt hlarge] at h
  cases h

theorem exec_frameEncode_of_le {s : State} {buf : List Byte} (h : buf.length ≤ s.params.rawBufMax)
    (cmd : Byte) : exec (.frameEncode cmd buf) s =
      .next (pushResponse (frameEncodeResponse s.params cmd buf) s) := by
  rw [exec_frameEncode, withinCapacity_of_le h]
  rfl

theorem exec_frameEncode_next {s t : State} {cmd : Byte} {buf : List Byte}
    (h : exec (.frameEncode cmd buf) s = .next t) :
    t = pushResponse (frameEncodeResponse s.params cmd buf) s :=
  ((exec_next_iff _ s t).mp h).right

/-- A request that FRAME_ENCODE answers with a frame had data of at most 249 bytes, and the frame is the
one built from it. -/
theorem frameEncode_answered {s t : State} {cmd : Byte} {buf f : List Byte}
    (h : exec (.frameEncode cmd buf) s = .next t)
    (hres : t.responses = s.responses ++ [⟨.ok, none, some f, none⟩]) :
    buf.length ≤ 249 ∧ f = buildFrame s.params cmd buf := by
  rw [exec_frameEncode_next h, pushResponse_responses] at hres
  exact frameEncodeResponse_eq_ofBytes (List.singleton_inj.mp (List.append_cancel_left hres))

end Sys2Proof.Machine
end

section
/-!
PROOF. The statements of 41_frame_encode.md.
-/

namespace Sys2Proof.Machine

/-- Settles O26: the capacity decides whether there is an answer, and MAX_DATA which one (R120). -/
theorem frameEncodeBuildsFrame : Obligations.FrameEncodeBuildsFrame := by
  intro s cmd buf
  refine ⟨fun hbeyond => ?_, fun hcap hlarge => ?_, fun hcap hlen => ?_⟩
  · rw [exec_frameEncode, withinCapacity_of_lt hbeyond]
  · rw [exec_frameEncode_of_le hcap, frameEncodeResponse_of_lt hlarge]
    rfl
  · refine ⟨frameBody s.params cmd buf, _, rfl, frameBody_length _ _ _, rfl, ?_⟩
    rw [exec_frameEncode_of_le hcap, frameEncodeResponse_of_le hlen]
    rfl

/-- Settles O27: R21's constraint leaves room for the data, and the length fits in a byte (R121). -/
theorem frameLengthByteIsFrameLength : Obligations.FrameLengthByteIsFrameLength := by
  intro s cmd buf hwf hlen
  have hcap : buf.length ≤ s.params.rawBufMax := hlen.trans ((Nat.le_add_right maxData overhead).trans hwf)
  refine ⟨buildFrame s.params cmd buf, ?_, buildFrame_lengthByte hlen, buildFrame_length _ _ _⟩
  rw [exec_frameEncode_of_le hcap, frameEncodeResponse_of_le hlen]
  rfl

/-- Settles O28: a frame ends in the two bytes of its own CRC, passes the strict check, and fits every
capacity that R21 admits (R122). -/
theorem frameChecksumRoundTrip : Obligations.FrameChecksumRoundTrip := by
  intro s t cmd buf f hwf h hres
  obtain ⟨hlen, rfl⟩ := frameEncode_answered h hres
  have hcap : (buildFrame s.params cmd buf).length ≤ t.params.rawBufMax := by
    rw [exec_frameEncode_next h, pushResponse_params]
    exact (buildFrame_length_le_maxFrame hlen).trans hwf
  refine ⟨⟨_, _, appendChecksum_getElem?_low _, appendChecksum_getElem?_high _, ?_⟩,
    crc16_appendChecksum _, ?_⟩
  · rw [buildFrame, appendChecksum_take_covered]
    exact (joinBytes_lowByte_highByte _).symm
  · rw [exec_frameCheck, withinCapacity_of_le hcap, strictCheck_buildFrame hlen]
    rfl

/-- Settles O29: the header is written at fixed positions, and the data fills what is left between it and
the checksum (R123). -/
theorem frameFixedFieldsAndData : Obligations.FrameFixedFieldsAndData := by
  intro s t cmd buf f h hres
  obtain ⟨-, rfl⟩ := frameEncode_answered h hres
  refine ⟨rfl, rfl, rfl, ?_⟩
  rw [buildFrame, appendChecksum_take_covered]
  rfl

/-- Settles O30: the one response is a function of the request and of the two parameters that the frame
holds (R124). -/
theorem encodeDependsOnlyOnInputs : Obligations.EncodeDependsOnlyOnInputs := by
  intro s s' t t' cmd buf hsync haddr h h'
  refine ⟨frameEncodeResponse s.params cmd buf, ?_, ?_⟩
  · rw [exec_frameEncode_next h, pushResponse_responses]
  · rw [exec_frameEncode_next h', pushResponse_responses, frameEncodeResponse_congr hsync haddr]

end Sys2Proof.Machine
end

section
/-!
PROOF. A raw input by its parts, header, data and checksum (42_frame_decode.md R140, R141; 20_memory.md
R44), and the CRC of an input with its checksum field (R149).
-/

namespace Sys2Proof.Machine

theorem lowByte_joinBytes (lo hi : Byte) : lowByte (joinBytes lo hi) = lo := by
  apply BitVec.eq_of_getLsbD_eq
  intro i hbit
  simp [joinBytes, zext16, lowByte, hbit]
  omega

theorem highByte_joinBytes (lo hi : Byte) : highByte (joinBytes lo hi) = hi := by
  apply BitVec.eq_of_getLsbD_eq
  intro i hbit
  have hhigh : 8 + i < 16 := by omega
  simp [joinBytes, zext16, highByte, hbit, hhigh]

theorem append_pair_take_covered (covered : List Byte) (lo hi : Byte) :
    (covered ++ [lo, hi]).take ((covered ++ [lo, hi]).length - 2) = covered := by
  rw [List.length_append]
  exact List.take_left

theorem exists_eq_append_pair {raw : List Byte} (h : 2 ≤ raw.length) :
    ∃ covered lo hi, raw = covered ++ [lo, hi] := by
  have hlen : (raw.drop (raw.length - 2)).length = 2 := by rw [List.length_drop]; omega
  obtain ⟨lo, hi, hlast⟩ := List.length_eq_two.mp hlen
  exact ⟨raw.take (raw.length - 2), lo, hi, hlast ▸ (List.take_append_drop _ raw).symm⟩

/-- A usable input is a header and less than a checksum, or a header, data and a checksum. -/
theorem usable_cases {raw : List Byte} (h : 4 ≤ raw.length) :
    ∃ (sync addr len cmd : Byte) (data : List Byte),
      (data.length < 2 ∧ raw = [sync, addr, len, cmd] ++ data) ∨
        ∃ lo hi, raw = [sync, addr, len, cmd] ++ data ++ [lo, hi] := by
  match raw, h with
  | sync :: addr :: len :: cmd :: rest, _ =>
    by_cases hrest : rest.length < 2
    · exact ⟨sync, addr, len, cmd, rest, .inl ⟨hrest, rfl⟩⟩
    · obtain ⟨data, lo, hi, rfl⟩ := exists_eq_append_pair (Nat.not_lt.mp hrest)
      exact ⟨sync, addr, len, cmd, data, .inr ⟨lo, hi, rfl⟩⟩

theorem dataOf_of_lt {raw : List Byte} (h : raw.length < 6) : dataOf raw = raw.drop 4 :=
  if_neg (Nat.not_le.mpr h)

theorem split_without_checksum (sync addr len cmd : Byte) {data : List Byte} (h : data.length < 2) :
    split ([sync, addr, len, cmd] ++ data) =
      some ⟨[sync, addr, len, cmd] ++ data, sync, addr, len, cmd, data, none⟩ := by
  have hlen : ([sync, addr, len, cmd] ++ data).length < 6 := by simp; omega
  have hsplit := split_of_header sync addr len cmd data
  have hraw : sync :: addr :: len :: cmd :: data = [sync, addr, len, cmd] ++ data := rfl
  rwa [hraw, dataOf_of_lt hlen, checksumOf_of_lt hlen] at hsplit

theorem split_with_checksum (sync addr len cmd : Byte) (data : List Byte) (lo hi : Byte) :
    split ([sync, addr, len, cmd] ++ data ++ [lo, hi]) =
      some ⟨[sync, addr, len, cmd] ++ data ++ [lo, hi], sync, addr, len, cmd, data,
        some (joinBytes lo hi)⟩ := by
  have hsplit := split_of_header sync addr len cmd (data ++ [lo, hi])
  have hraw : sync :: addr :: len :: cmd :: (data ++ [lo, hi]) =
      [sync, addr, len, cmd] ++ data ++ [lo, hi] := rfl
  rwa [hraw, dataOf_append lo hi rfl, checksumOf_append lo hi (by simp)] at hsplit

theorem crc16Byte_acc_injective (b : Byte) : Function.Injective (crc16Byte · b) := fun _ _ h =>
  (BitVec.xor_left_inj (zext16 b)).mp (crcShifts_injective 8 h)

theorem crc16Byte_eq_zero_iff (a : Word) (b : Byte) : crc16Byte a b = 0#16 ↔ a = zext16 b := by
  rw [← crc16Byte_zext16_self b]
  exact (crc16Byte_acc_injective b).eq_iff

/-- The two bytes that bring an accumulator to zero are its own, low byte first. -/
theorem crcFold_pair_eq_zero_iff (c : Word) (lo hi : Byte) :
    crcFold c [lo, hi] = 0#16 ↔ c = joinBytes lo hi := by
  have hjoin : crc16Byte (joinBytes lo hi) lo = zext16 hi := by
    have h := crc16Byte_lowByte (joinBytes lo hi)
    rwa [lowByte_joinBytes, highByte_joinBytes] at h
  rw [crcFold_cons, crcFold_cons, crcFold_nil, crc16Byte_eq_zero_iff, ← hjoin]
  exact (crc16Byte_acc_injective lo).eq_iff

/-- 42_frame_decode.md R149. -/
theorem crc16_append_pair_eq_zero_iff (covered : List Byte) (lo hi : Byte) :
    crc16 (covered ++ [lo, hi]) = 0#16 ↔ crc16 covered = joinBytes lo hi := by
  rw [crc16_append, crcFold_pair_eq_zero_iff]

/-- 42_frame_decode.md R144: the strict check of an input with a checksum field, by its parts. -/
theorem strictCheck_append_pair {covered : List Byte} {len : Byte} (h : 4 ≤ covered.length)
    (hbyte : covered[2]? = some len) (lo hi : Byte) :
    strictCheck (covered ++ [lo, hi]) =
      if len.toNat ≠ (covered ++ [lo, hi]).length then .lengthMismatch
      else if crc16 covered ≠ joinBytes lo hi then .checksumMismatch
      else .ok := by
  have hlen : 6 ≤ (covered ++ [lo, hi]).length := by simp; omega
  rw [strictCheck_of_le hlen, append_pair_take_covered, checksumOf_append lo hi h,
    List.getElem?_append_left (by omega), hbyte]
  simp only [Option.map_some, ne_eq, Option.some.injEq]

end Sys2Proof.Machine
end

section
/-!
PROOF. What FRAME_DECODE and FRAME_CHECK answer (42_frame_decode.md R142, R143), and the run that serves
requests within the capacity (60_exceptions.md R178).
-/

namespace Sys2Proof.Machine

theorem frameDecodeResponse_short {buf : List Byte} (h : buf.length < 4) (p : Params) :
    frameDecodeResponse p buf = .ofStatus .shortFrame := by
  rw [frameDecodeResponse, decodeStatus_short h]
  rfl

theorem frameDecodeResponse_of_ok {p : Params} {buf : List Byte}
    (h : decodeStatus p.strictDecode buf = .ok) : frameDecodeResponse p buf = .ofFrame (split buf) :=
  if_pos h

theorem frameDecodeResponse_of_ne_ok {p : Params} {buf : List Byte}
    (h : decodeStatus p.strictDecode buf ≠ .ok) :
    frameDecodeResponse p buf = .ofStatus (decodeStatus p.strictDecode buf) := if_neg h

/-- The strict check decides in strict mode only. -/
theorem decodeStatus_eq_ok {strict : Bool} {raw : List Byte} (hlen : 4 ≤ raw.length)
    (h : strict = true → strictCheck raw = .ok) : decodeStatus strict raw = .ok := by
  rw [decodeStatus_of_le hlen]
  cases strict with
  | false => rfl
  | true => exact h rfl

theorem frameDecodeResponse_congr {p p' : Params} (h : p.strictDecode = p'.strictDecode)
    (buf : List Byte) : frameDecodeResponse p buf = frameDecodeResponse p' buf := by
  simp only [frameDecodeResponse, h]

theorem exec_frameDecode_of_le {s : State} {buf : List Byte} (h : buf.length ≤ s.params.rawBufMax) :
    exec (.frameDecode buf) s = .next (pushResponse (frameDecodeResponse s.params buf) s) := by
  rw [exec_frameDecode, withinCapacity_of_le h]
  rfl

theorem exec_frameCheck_of_le {s : State} {buf : List Byte} (h : buf.length ≤ s.params.rawBufMax) :
    exec (.frameCheck buf) s = .next (pushResponse (.ofStatus (strictCheck buf)) s) := by
  rw [exec_frameCheck, withinCapacity_of_le h]
  rfl

/-- A usable input that no check stops is answered with its split. -/
theorem exec_frameDecode_split {s : State} {buf : List Byte} (hcap : buf.length ≤ s.params.rawBufMax)
    (hlen : 4 ≤ buf.length) (hcheck : s.params.strictDecode = true → strictCheck buf = .ok) :
    ∃ d, split buf = some d ∧
      exec (.frameDecode buf) s = .next (pushResponse (.ofFrame (some d)) s) := by
  obtain ⟨d, hd⟩ := Option.ne_none_iff_exists'.mp ((split_ne_none_iff buf).mpr hlen)
  refine ⟨d, hd, ?_⟩
  rw [exec_frameDecode_of_le hcap, frameDecodeResponse_of_ok (decodeStatus_eq_ok hlen hcheck), hd]

/-- Two states with the same capacity both refuse an input, or both give the response to it. -/
theorem withinCapacity_respond_agree {s s' : State} (h : s.params.rawBufMax = s'.params.rawBufMax)
    (buf : List Byte) (r : Response) :
    (withinCapacity buf s (respond r s) = .refused .inputBeyondCapacity ∧
        withinCapacity buf s' (respond r s') = .refused .inputBeyondCapacity) ∨
      ∃ t t' : State, withinCapacity buf s (respond r s) = .next t ∧
        withinCapacity buf s' (respond r s') = .next t' ∧
        t.responses = s.responses ++ [r] ∧ t'.responses = s'.responses ++ [r] := by
  by_cases hcap : buf.length ≤ s.params.rawBufMax
  · exact .inr ⟨_, _, withinCapacity_of_le hcap, withinCapacity_of_le (h ▸ hcap), rfl, rfl⟩
  · rw [Nat.not_le] at hcap
    exact .inl ⟨withinCapacity_of_lt hcap, withinCapacity_of_lt (h ▸ hcap)⟩

/-- Requests within the capacity are served one after another. -/
theorem run_issue_of_fits {is : List Instr} {s : State}
    (h : ∀ i ∈ is, i.wf = true ∧ FitsCapacity s.params i) :
    run is.length (issue is s) = .next (is.foldl (fun t i => stateAfter i t) s) := by
  induction is generalizing s with
  | nil => rfl
  | cons i is ih =>
    obtain ⟨⟨hwf, hfits⟩, hrest⟩ := List.forall_mem_cons.mp h
    have hstep : step (issue (i :: is) s) = .next (issue is (stateAfter i s)) := by
      rw [step_issue_cons hwf]
      exact (exec_next_iff i _ _).mpr ⟨hfits, rfl⟩
    rw [List.length_cons, run_succ_next hstep, ih (s := stateAfter i s) hrest, List.foldl_cons]

/-- 42_frame_decode.md R146. -/
theorem frameDecodeResponse_buildFrame (p : Params) (cmd : Byte) {data : List Byte}
    (h : data.length ≤ 249) :
    frameDecodeResponse p (buildFrame p cmd data) = .ofFrame (some
      { raw := buildFrame p cmd data
        sync := p.syncByte
        addr := p.addrByte
        len := BitVec.ofNat 8 (data.length + 6)
        cmd := cmd
        data := data
        checksum := some (crc16 (frameBody p cmd data)) }) := by
  have hlen : 4 ≤ (buildFrame p cmd data).length := by rw [buildFrame_length, overhead_eq]; omega
  have hsplit := split_with_checksum p.syncByte p.addrByte (BitVec.ofNat 8 (data.length + 6)) cmd data
    (lowByte (crc16 (frameBody p cmd data))) (highByte (crc16 (frameBody p cmd data)))
  rw [joinBytes_lowByte_highByte] at hsplit
  rw [frameDecodeResponse_of_ok (decodeStatus_eq_ok hlen fun _ => strictCheck_buildFrame h)]
  exact congrArg Response.ofFrame hsplit

end Sys2Proof.Machine
end

section
/-!
PROOF. The statements of 42_frame_decode.md.
-/

namespace Sys2Proof.Machine

/-- Settles O35: the frame fits every capacity that R21 admits, passes the strict check in both modes,
and its split gives back the parts it was built from (R146). -/
theorem decodeAfterEncode : Obligations.DecodeAfterEncode := by
  intro s cmd d hwf hlen
  have hdata : d.length ≤ s.params.rawBufMax :=
    hlen.trans ((Nat.le_add_right maxData overhead).trans hwf)
  have hframe : (buildFrame s.params cmd d).length ≤ s.params.rawBufMax :=
    (buildFrame_length_le_maxFrame hlen).trans hwf
  have hfits : ∀ i ∈ [Instr.frameEncode cmd d, .frameDecode (buildFrame s.params cmd d),
      .frameCheck (buildFrame s.params cmd d)], i.wf = true ∧ FitsCapacity s.params i := by
    simpa [Instr.wf, FitsCapacity, bufOperand] using ⟨hdata, hframe⟩
  refine ⟨_, (run_issue_of_fits hfits).trans (congrArg _ (State.eq_of_fields rfl ?_ rfl rfl))⟩
  simp only [List.foldl_cons, List.foldl_nil, stateAfter_responses, stateAfter_params, responseTo,
    frameEncodeResponse_of_le hlen, frameDecodeResponse_buildFrame _ _ hlen,
    strictCheck_buildFrame hlen, List.append_assoc]
  rw [buildFrame, appendChecksum_take_covered]
  rfl

/-- Settles O25: the covered bytes leave their CRC in the accumulator, and only its own two bytes bring
that to zero (R149). -/
theorem checksumHoldsIffResidueZero : Obligations.ChecksumHoldsIffResidueZero := by
  rintro raw covered lo hi rfl hlen
  have hcovered : 4 ≤ covered.length := by simpa using hlen
  have hresidue := (crc16_append_pair_eq_zero_iff covered lo hi).symm
  refine ⟨?_, hresidue⟩
  rwa [append_pair_take_covered, checksumOf_append lo hi hcovered, Option.some.injEq]

/-- Settles O31: a usable input with less than a checksum after its header, and one with data and a
checksum (R140, R141). -/
theorem splitReadsFieldsByPosition : Obligations.SplitReadsFieldsByPosition := by
  intro raw hlen
  obtain ⟨sync, addr, len, cmd, data, ⟨hdata, rfl⟩ | ⟨lo, hi, rfl⟩⟩ := usable_cases hlen
  · refine ⟨_, split_without_checksum sync addr len cmd hdata, rfl, rfl, rfl, rfl, rfl,
      fun h6 => ?_, fun _ => ⟨rfl, rfl⟩⟩
    simp at h6
    omega
  · refine ⟨_, split_with_checksum sync addr len cmd data lo hi, rfl, rfl, rfl, rfl, rfl,
      fun _ => ⟨by simp, fun i hi => ?_, lo, hi, by simp, by simp, rfl⟩, fun h6 => ?_⟩
    · have hin : i < data.length := by simpa using hi
      rw [List.append_assoc, List.getElem?_append_right (Nat.le_add_right 4 i)]
      simp [List.getElem?_append_left hin]
    · simp at h6
      omega

/-- Settles O32: the capacity decides whether there is an answer, the length and in strict mode the
strict check which one (R142). -/
theorem frameDecodeOutcomes : Obligations.FrameDecodeOutcomes := by
  intro s buf
  refine ⟨fun hbeyond => ?_, fun hcap hshort => ?_, fun hcap hlen hstrict hfails => ?_,
    fun hcap hlen hcheck => exec_frameDecode_split hcap hlen hcheck⟩
  · rw [exec_frameDecode, withinCapacity_of_lt hbeyond]
  · rw [exec_frameDecode_of_le hcap, frameDecodeResponse_short hshort]
    rfl
  · have hstatus : decodeStatus s.params.strictDecode buf = strictCheck buf := by
      rw [decodeStatus_of_le hlen, if_pos hstrict]
    rw [exec_frameDecode_of_le hcap, frameDecodeResponse_of_ne_ok (hstatus ▸ hfails), hstatus]
    rfl

/-- Settles O33: the verdict is the strict check's, and each condition leads it to one of its branches
(R143, R144). -/
theorem frameCheckVerdict : Obligations.FrameCheckVerdict := by
  intro s raw
  refine ⟨fun hbeyond => ?_, fun hcap => ⟨strictCheck raw, exec_frameCheck_of_le hcap, rfl,
    strictCheck_short, fun h => strictCheck_noChecksum (by omega) (by omega), ?_⟩⟩
  · rw [exec_frameCheck, withinCapacity_of_lt hbeyond]
  · rintro hdr len mid lo hi rfl hhdr hmid
    have hcovered : 4 ≤ (hdr ++ [len] ++ mid).length := by simp; omega
    have hbyte : (hdr ++ [len] ++ mid)[2]? = some len := by rw [← hhdr]; simp
    rw [strictCheck_append_pair hcovered hbyte]
    exact ⟨fun hne => if_pos hne, fun heq hne => (if_neg (not_not.mpr heq)).trans (if_pos hne),
      fun heq hsum => (if_neg (not_not.mpr heq)).trans (if_neg (not_not.mpr hsum))⟩

/-- Settles O34: in lenient mode the strict check stops no input (R145). -/
theorem lenientDecodeIsTotal : Obligations.LenientDecodeIsTotal := by
  intro s buf hmode hcap
  obtain ⟨-, hshort, -, hsplit⟩ := frameDecodeOutcomes s buf
  exact ⟨hshort hcap, fun hlen => hsplit hcap hlen fun hstrict => by simp [hmode] at hstrict⟩

/-- Settles O37: lenient decode answers the split, whose parts are those of the input (R148). -/
theorem lenientDecodePassesBytesThrough : Obligations.LenientDecodePassesBytesThrough := by
  intro s buf hmode hcap hlen
  obtain ⟨d, hd, hexec⟩ := (lenientDecodeIsTotal s buf hmode hcap).right hlen
  refine ⟨d, hexec, split_raw hd, ?_⟩
  obtain ⟨sync, addr, len, cmd, data, ⟨hdata, rfl⟩ | ⟨lo, hi, rfl⟩⟩ := usable_cases hlen
  · obtain rfl := Option.some.inj ((split_without_checksum sync addr len cmd hdata).symm.trans hd)
    refine ⟨iff_of_true rfl ?_, List.append_nil _⟩
    simp; omega
  · obtain rfl := Option.some.inj ((split_with_checksum sync addr len cmd data lo hi).symm.trans hd)
    refine ⟨iff_of_false nofun ?_, ?_⟩
    · simp
    · show _ ++ _ ++ [lowByte (joinBytes lo hi), highByte (joinBytes lo hi)] = _
      rw [lowByte_joinBytes, highByte_joinBytes]

/-- Settles O38: of the state, FRAME_DECODE's response reads only the mode and FRAME_CHECK's nothing, and
the capacity decides whether either is given (R150). -/
theorem decoderDependsOnlyOnInputs : Obligations.DecoderDependsOnlyOnInputs := by
  intro s s' buf hmax
  refine ⟨fun hmode => ?_, ?_⟩
  · rw [exec_frameDecode, exec_frameDecode, frameDecodeResponse_congr hmode]
    exact (withinCapacity_respond_agree hmax buf _).imp_right fun h => ⟨_, h⟩
  · exact (withinCapacity_respond_agree hmax buf _).imp_right fun h => ⟨_, h⟩

/-- Settles O36: fewer than four bytes are within every capacity that R21 admits, and the first check of
either operation stops them (R147). -/
theorem shortFramesTolerated : Obligations.ShortFramesTolerated := by
  intro s buf hwf hshort
  have hcap : buf.length ≤ s.params.rawBufMax :=
    (hshort.le.trans (by decide : 4 ≤ maxFrame)).trans hwf
  obtain ⟨-, hdecode, -⟩ := frameDecodeOutcomes s buf
  refine ⟨hdecode hcap hshort, ?_⟩
  rw [exec_frameCheck_of_le hcap, strictCheck_short hshort]
  rfl

end Sys2Proof.Machine
end

section
/-!
PROOF. When an operation is refused, and what its answer is otherwise: the status alone when that is not
OK (60_exceptions.md R170, R178).
-/

namespace Sys2Proof.Machine

theorem frameEncodeResponse_of_status_ne_ok {p : Params} {cmd : Byte} {buf : List Byte}
    (h : (frameEncodeResponse p cmd buf).status ≠ .ok) :
    frameEncodeResponse p cmd buf = .ofStatus (frameEncodeResponse p cmd buf).status := by
  obtain ⟨-, hr⟩ | hr := frameEncodeResponse_cases p cmd buf <;> rw [hr] at h ⊢
  · rfl
  · exact absurd rfl h

theorem frameDecodeResponse_of_status_ne_ok {p : Params} {buf : List Byte}
    (h : (frameDecodeResponse p buf).status ≠ .ok) :
    frameDecodeResponse p buf = .ofStatus (frameDecodeResponse p buf).status := by
  obtain hr | ⟨-, hr⟩ := frameDecodeResponse_cases p buf <;> rw [hr] at h ⊢
  · rfl
  · exact absurd rfl h

/-- 60_exceptions.md R170: a status other than OK comes alone. -/
theorem responseTo_of_status_ne_ok {i : Instr} {a : Word} {p : Params}
    (h : (responseTo i a p).status ≠ .ok) : responseTo i a p = .ofStatus (responseTo i a p).status := by
  cases i with
  | crcRead => exact absurd rfl h
  | crcCompute buf => exact absurd rfl h
  | frameEncode cmd buf => exact frameEncodeResponse_of_status_ne_ok h
  | frameDecode buf => exact frameDecodeResponse_of_status_ne_ok h
  | _ => rfl

/-- The two writers of ACC always answer OK. -/
theorem accAfter_of_status_ne_ok {i : Instr} {a : Word} {p : Params}
    (h : (responseTo i a p).status ≠ .ok) : accAfter i a = a := by
  cases i with
  | crcInit => exact absurd rfl h
  | crcUpdate b => exact absurd rfl h
  | _ => rfl

theorem stateAfter_of_status_ne_ok {i : Instr} {s : State}
    (h : (responseTo i s.acc s.params).status ≠ .ok) :
    stateAfter i s = pushResponse (.ofStatus (responseTo i s.acc s.params).status) s := by
  rw [stateAfter, accAfter_of_status_ne_ok h, responseTo_of_status_ne_ok h]
  rfl

theorem exec_of_fits {i : Instr} {s : State} (h : FitsCapacity s.params i) :
    exec i s = .next (stateAfter i s) := (exec_next_iff i s _).mpr ⟨h, rfl⟩

theorem exec_of_not_fits {i : Instr} {s : State} (h : ¬ FitsCapacity s.params i) :
    exec i s = .refused .inputBeyondCapacity := by
  have beyond {buf : List Byte} (hbuf : bufOperand i = some buf) : s.params.rawBufMax < buf.length := by
    rwa [fitsCapacity_iff_of_bufOperand_some hbuf, Nat.not_le] at h
  cases i with
  | crcCompute buf => exact withinCapacity_of_lt (beyond rfl)
  | frameEncode cmd buf => exact withinCapacity_of_lt (beyond rfl)
  | frameDecode buf => exact withinCapacity_of_lt (beyond rfl)
  | frameCheck buf => exact withinCapacity_of_lt (beyond rfl)
  | _ => exact absurd (fitsCapacity_of_bufOperand_none rfl _) h

theorem exec_refused_iff {i : Instr} {s : State} {why : Refusal} :
    exec i s = .refused why ↔ why = .inputBeyondCapacity ∧ ¬ FitsCapacity s.params i := by
  by_cases h : FitsCapacity s.params i
  · rw [exec_of_fits h]
    exact iff_of_false nofun fun hwhy => hwhy.right h
  · rw [exec_of_not_fits h, Host.Outcome.refused.injEq, eq_comm, and_iff_left h]

/-- Only serving a request can be refused. -/
theorem step_refused_iff {s : State} {why : Refusal} :
    step s = .refused why ↔ ∃ r rest, s.port = .request r :: rest ∧
      exec (decode r) { s with port := rest } = .refused why := by
  constructor
  · intro h
    match hport : s.port with
    | [] => rw [step, takeEvent_nil hport] at h; cases h
    | .reset :: rest => rw [step, takeEvent_reset hport] at h; cases h
    | .request r :: rest => exact ⟨r, rest, rfl, step_request hport ▸ h⟩
  · rintro ⟨r, rest, hport, h⟩
    rwa [step_request hport]

end Sys2Proof.Machine
end

section
/-!
PROOF. What a request's opc says of its capacity check and of its status (30_encoding.md R77;
60_exceptions.md R177, R178).
-/

namespace Sys2Proof.Machine

/-- The opcs of the four operations with a `buf` operand (30_encoding.md R77, R79). -/
abbrev BufferOpc (opc : Byte) : Prop :=
  opc = 0x04#8 ∨ opc = 0x05#8 ∨ opc = 0x06#8 ∨ opc = 0x07#8

theorem bufOperand_decode_of_bufferOpc {r : Request} (h : BufferOpc r.opc) :
    bufOperand (decode r) = some r.buf := by
  obtain h | h | h | h := h
  · rw [decode_of_opc_crcCompute h]; rfl
  · rw [decode_of_opc_frameEncode h]; rfl
  · rw [decode_of_opc_frameDecode h]; rfl
  · rw [decode_of_opc_frameCheck h]; rfl

theorem bufOperand_decode_of_not_bufferOpc {r : Request} (h : ¬ BufferOpc r.opc) :
    bufOperand (decode r) = none := by
  obtain h1 | h2 | h3 | h4 | h5 | h6 | h7 | hres := opc_cases r.opc
  · rw [decode_of_opc_crcInit h1]; rfl
  · rw [decode_of_opc_crcUpdate h2]; rfl
  · rw [decode_of_opc_crcRead h3]; rfl
  · exact absurd (.inl h4) h
  · exact absurd (.inr (.inl h5)) h
  · exact absurd (.inr (.inr (.inl h6))) h
  · exact absurd (.inr (.inr (.inr h7))) h
  · rw [decode_of_reservedOpc hres]; rfl

/-- 60_exceptions.md R178. -/
theorem not_fitsCapacity_decode_iff {p : Params} {r : Request} :
    ¬ FitsCapacity p (decode r) ↔ BufferOpc r.opc ∧ p.rawBufMax < r.buf.length := by
  by_cases h : BufferOpc r.opc
  · rw [fitsCapacity_iff_of_bufOperand_some (bufOperand_decode_of_bufferOpc h), Nat.not_le,
      and_iff_right h]
  · have hfits := fitsCapacity_of_bufOperand_none (bufOperand_decode_of_not_bufferOpc h) p
    exact iff_of_false (not_not.mpr hfits) fun hbeyond => h hbeyond.left

theorem bufferOpc_iff_le {opc : Byte} (h : ¬ ReservedOpc opc) : BufferOpc opc ↔ 0x04#8 ≤ opc := by
  simp only [ReservedOpc, BufferOpc] at h ⊢
  bv_omega

/-- The status a request gets when it is not refused. -/
def statusOf (r : Request) (s : State) : Status := (responseTo (decode r) s.acc s.params).status

/-- The requests whose input the strict check judges (42_frame_decode.md R142, R143). -/
abbrev CheckedStrictly (r : Request) (s : State) : Prop :=
  (r.opc = 0x06#8 ∧ s.params.strictDecode = true) ∨ r.opc = 0x07#8

/-- The first two checks on an input, short and without a checksum field, leave those of six bytes or
more. -/
theorem CheckedStrictly.six_le_length {r : Request} {s : State} (h : CheckedStrictly r s)
    (hshort : ¬ ((r.opc = 0x06#8 ∨ r.opc = 0x07#8) ∧ r.buf.length < 4))
    (hfield : ¬ (CheckedStrictly r s ∧ (r.buf.length = 4 ∨ r.buf.length = 5))) :
    6 ≤ r.buf.length := by
  have h4 : ¬ r.buf.length < 4 := fun hlt => hshort ⟨h.imp_left And.left, hlt⟩
  have h45 : ¬ (r.buf.length = 4 ∨ r.buf.length = 5) := fun heq => hfield ⟨h, heq⟩
  omega

section Served

variable {s : State} {r : Request} {rest : List HostEvent} (hport : s.port = .request r :: rest)
  (hfits : FitsCapacity s.params (decode r))
include hport hfits

theorem step_of_fits : step s = .next (stateAfter (decode r) { s with port := rest }) := by
  rw [step_request hport]
  exact exec_of_fits (s := { s with port := rest }) hfits

theorem step_of_statusOf_ne_ok (hst : statusOf r s ≠ .ok) :
    step s = .next { s with port := rest, responses := s.responses ++ [.ofStatus (statusOf r s)] } := by
  rw [step_of_fits hport hfits]
  exact congrArg _ (stateAfter_of_status_ne_ok (s := { s with port := rest }) hst)

end Served

section StatusOf

variable {r : Request} {s : State}

theorem statusOf_frameEncode (h : r.opc = 0x05#8) :
    statusOf r s = if 249 < r.buf.length then .frameTooLarge else .ok := by
  rw [statusOf, decode_of_opc_frameEncode h, responseTo, frameEncodeResponse, maxData_eq]
  split <;> rfl

theorem statusOf_frameDecode (h : r.opc = 0x06#8) :
    statusOf r s = decodeStatus s.params.strictDecode r.buf := by
  rw [statusOf, decode_of_opc_frameDecode h]
  exact frameDecodeResponse_status s.params r.buf

theorem statusOf_frameCheck (h : r.opc = 0x07#8) : statusOf r s = strictCheck r.buf := by
  rw [statusOf, decode_of_opc_frameCheck h]
  rfl

theorem statusOf_short (h : r.opc = 0x06#8 ∨ r.opc = 0x07#8) (hlen : r.buf.length < 4) :
    statusOf r s = .shortFrame := by
  obtain h | h := h
  · rw [statusOf_frameDecode h, decodeStatus_short hlen]
  · rw [statusOf_frameCheck h, strictCheck_short hlen]

theorem statusOf_checkedStrictly (h : CheckedStrictly r s) (hlen : 4 ≤ r.buf.length) :
    statusOf r s = strictCheck r.buf := by
  obtain ⟨h, hstrict⟩ | h := h
  · rw [statusOf_frameDecode h, decodeStatus_of_le hlen, if_pos hstrict]
  · exact statusOf_frameCheck h

/-- 60_exceptions.md R177: no check applies to the request. -/
theorem statusOf_ok (hres : ¬ ReservedOpc r.opc) (hlarge : ¬ (r.opc = 0x05#8 ∧ 249 < r.buf.length))
    (hshort : ¬ ((r.opc = 0x06#8 ∨ r.opc = 0x07#8) ∧ r.buf.length < 4))
    (hcheck : CheckedStrictly r s → strictCheck r.buf = .ok) : statusOf r s = .ok := by
  obtain h | h | h | h | h | h | h | h := opc_cases r.opc
  · rw [statusOf, decode_of_opc_crcInit h]; rfl
  · rw [statusOf, decode_of_opc_crcUpdate h]; rfl
  · rw [statusOf, decode_of_opc_crcRead h]; rfl
  · rw [statusOf, decode_of_opc_crcCompute h]; rfl
  · rw [statusOf_frameEncode h, if_neg fun hlen => hlarge ⟨h, hlen⟩]
  · have hlen : 4 ≤ r.buf.length := Nat.not_lt.mp fun hlen => hshort ⟨.inl h, hlen⟩
    rw [statusOf_frameDecode h, decodeStatus_eq_ok hlen fun hstrict => hcheck (.inl ⟨h, hstrict⟩)]
  · rw [statusOf_frameCheck h, hcheck (.inr h)]
  · exact absurd h hres

end StatusOf

end Sys2Proof.Machine
end

section
/-!
PROOF. The statements of 60_exceptions.md.
-/

namespace Sys2Proof.Machine

/-- Settles O39: an operation that ends with a status other than OK leaves ACC and gives that status
alone; what the next step serves is the head of the port, which no operation touches. -/
theorem nonOkStatusWritesNothing : Obligations.NonOkStatusWritesNothing := by
  intro i s t r h hresp hst
  obtain ⟨-, rfl⟩ := (exec_next_iff i s t).mp h
  obtain rfl : responseTo i s.acc s.params = r := by simpa using hresp
  have halone := responseTo_of_status_ne_ok hst
  refine ⟨halone, ?_, fun q rest hport => step_request hport⟩
  rw [stateAfter_of_status_ne_ok hst, ← halone]
  rfl

/-- Settles O40: the opc and the capacity decide whether the operation runs, and its status follows the
remaining checks in order (R177). -/
theorem firstApplicableCheckDecides : Obligations.FirstApplicableCheckDecides := by
  intro s r rest hport
  dsimp only
  have answers {st : Status} (hfits : FitsCapacity s.params (decode r)) (h : statusOf r s = st)
      (hne : st ≠ .ok) :
      step s = .next { s with port := rest, responses := s.responses ++ [⟨st, none, none, none⟩] } := by
    subst h
    exact step_of_statusOf_ne_ok hport hfits hne
  split_ifs with hres hcap hlarge hshort hfield hlength hsum
  · rw [step_request hport, decode_of_reservedOpc hres]; rfl
  all_goals rw [← bufferOpc_iff_le hres, ← not_fitsCapacity_decode_iff] at hcap
  · rw [step_request hport]
    exact exec_of_not_fits (s := { s with port := rest }) hcap
  all_goals rw [not_not] at hcap
  · exact answers hcap ((statusOf_frameEncode hlarge.left).trans (if_pos hlarge.right)) nofun
  · exact answers hcap (statusOf_short hshort.left hshort.right) nofun
  · obtain ⟨hstrictly, hlen⟩ := hfield
    have h4 : 4 ≤ r.buf.length := by omega
    have h6 : r.buf.length < 6 := by omega
    exact answers hcap
      ((statusOf_checkedStrictly hstrictly h4).trans (strictCheck_noChecksum h4 h6)) nofun
  · obtain ⟨hstrictly, hlength⟩ := hlength
    have hlen := CheckedStrictly.six_le_length hstrictly hshort hfield
    refine answers hcap ((statusOf_checkedStrictly hstrictly (by omega)).trans ?_) nofun
    rw [strictCheck_of_le hlen, if_pos hlength]
  · obtain ⟨hstrictly, hsum⟩ := hsum
    have hlen := CheckedStrictly.six_le_length hstrictly hshort hfield
    refine answers hcap ((statusOf_checkedStrictly hstrictly (by omega)).trans ?_) nofun
    rw [strictCheck_of_le hlen, if_neg fun h => hlength ⟨hstrictly, h⟩, if_pos hsum]
  · refine ⟨_, _, step_of_fits hport hcap, rfl,
      statusOf_ok hres hlarge hshort fun hstrictly => ?_⟩
    have hlen := CheckedStrictly.six_le_length hstrictly hshort hfield
    rw [strictCheck_of_le hlen, if_neg fun h => hlength ⟨hstrictly, h⟩,
      if_neg fun h => hsum ⟨hstrictly, h⟩]

/-- Settles O41: only a request is refused, and only one whose `buf` operand does not fit (R178); the
type of faults is empty. -/
theorem refusedExactlyBeyondCapacity : Obligations.RefusedExactlyBeyondCapacity := by
  refine fun s => ⟨fun why => ?_, fun why n => run_succ_refused, nofun⟩
  simp only [step_refused_iff, exec_refused_iff, not_fitsCapacity_decode_iff]
  constructor
  · rintro ⟨r, rest, hport, hwhy, hbeyond⟩
    exact ⟨hwhy, r, rest, hport, hbeyond⟩
  · rintro ⟨hwhy, r, rest, hport, hbeyond⟩
    exact ⟨r, rest, hport, hwhy, hbeyond⟩

/-- Settles O47: neither request writes ACC or the parameters, which are all that the other's capacity
check and response read. -/
theorem nonUpdatingRequestsCommute : Obligations.NonUpdatingRequestsCommute := by
  intro i j s t u hi hi' hj hj' hit hju
  obtain ⟨hifits, rfl⟩ := (exec_next_iff i s t).mp hit
  obtain ⟨hjfits, rfl⟩ := (exec_next_iff j _ u).mp hju
  have hiacc := accAfter_eq_self hi hi'
  have hjacc := accAfter_eq_self hj hj'
  refine ⟨responseTo i s.acc s.params, responseTo j s.acc s.params, stateAfter j s,
    stateAfter i (stateAfter j s), rfl, ?_, exec_of_fits hjfits, exec_of_fits hifits, rfl, ?_, ?_,
    rfl, rfl⟩
  · simp [hiacc]
  · simp [hjacc]
  · simp [hiacc, hjacc]

end Sys2Proof.Machine
end

section
/-!
PROOF. What a step that is not refused can do, the invariants of runs, and the parameters, which no run
changes (10_state.md R31; 70_reset_and_hazards.md R205).
-/

namespace Sys2Proof.Machine

theorem step_idle {s : State} (hport : s.port = []) : step s = .next s := by
  rw [step, takeEvent_nil hport]

theorem step_reset {s : State} {rest : List HostEvent} (hport : s.port = .reset :: rest) :
    step s = .next (resetBlock { s with port := rest }) := by
  rw [step, takeEvent_reset hport]

/-- A step idles, resets the block, or serves a request whose operand fits; 70_reset_and_hazards.md
R200, 20_memory.md R51, R55. -/
theorem step_next_cases {s t : State} (h : step s = .next t) :
    (s.port = [] ∧ t = s) ∨
    (∃ rest, s.port = .reset :: rest ∧ t = resetBlock { s with port := rest }) ∨
    (∃ r rest, s.port = .request r :: rest ∧ FitsCapacity s.params (decode r) ∧
      t = stateAfter (decode r) { s with port := rest }) := by
  match hport : s.port with
  | [] =>
    rw [step_idle hport] at h
    cases h
    exact .inl ⟨rfl, rfl⟩
  | .reset :: rest =>
    rw [step_reset hport] at h
    cases h
    exact .inr (.inl ⟨rest, rfl, rfl⟩)
  | .request r :: rest =>
    rw [step_request hport, exec_next_iff] at h
    exact .inr (.inr ⟨r, rest, rfl, h⟩)

/-- What every step keeps, every run keeps. -/
theorem run_keeps {P : State → Prop} (hstep : ∀ {s t : State}, step s = .next t → P s → P t)
    {n : Nat} {s t : State} (h : run n s = .next t) (hs : P s) : P t := by
  induction n generalizing s with
  | zero =>
    rw [run_zero] at h
    cases h
    exact hs
  | succ n ih =>
    obtain ⟨u, hu, hrest⟩ := run_succ_cases h
    exact ih hrest (hstep hu hs)

theorem step_params {s t : State} (h : step s = .next t) : t.params = s.params := by
  obtain ⟨-, rfl⟩ | ⟨rest, -, rfl⟩ | ⟨r, rest, -, -, rfl⟩ := step_next_cases h
  · rfl
  · exact resetBlock_params _
  · exact stateAfter_params _ _

/-- Settles O44: the start's parameters are an invariant, since each step keeps them. -/
theorem parametersAreFixed : Obligations.ParametersAreFixed := fun _ s _ h =>
  run_keeps (P := fun u => u.params = s.params) (fun hstep hs => (step_params hstep).trans hs) h rfl

end Sys2Proof.Machine
end

section
/-!
PROOF. What a request has to share with another to decode alike (30_encoding.md R77 to R79).
-/

namespace Sys2Proof.Machine

theorem decode_wf (r : Request) : (decode r).wf = true := by
  obtain h | h | h | h | h | h | h | h := opc_cases r.opc
  · rw [decode_of_opc_crcInit h]; rfl
  · rw [decode_of_opc_crcUpdate h]; rfl
  · rw [decode_of_opc_crcRead h]; rfl
  · rw [decode_of_opc_crcCompute h]; rfl
  · rw [decode_of_opc_frameEncode h]; rfl
  · rw [decode_of_opc_frameDecode h]; rfl
  · rw [decode_of_opc_frameCheck h]; rfl
  · rw [decode_of_reservedOpc h]; exact decide_eq_true h

/-- Among requests with one opc, the fields that the operation reads are those that decoding keeps. -/
theorem agreesOnRead_iff_decode_eq_of_opc_eq {r r' : Request} (hopc : r.opc = r'.opc) :
    r.agreesOnRead r' ↔ decode r = decode r' := by
  rw [Request.agreesOnRead, and_iff_right hopc]
  obtain h | h | h | h | h | h | h | h := opc_cases r.opc <;> have h' := hopc ▸ h
  · rw [decode_of_opc_crcInit h, decode_of_opc_crcInit h', h]
    exact iff_of_true trivial rfl
  · rw [decode_of_opc_crcUpdate h, decode_of_opc_crcUpdate h', h, Instr.crcUpdate.injEq]
    rfl
  · rw [decode_of_opc_crcRead h, decode_of_opc_crcRead h', h]
    exact iff_of_true trivial rfl
  · rw [decode_of_opc_crcCompute h, decode_of_opc_crcCompute h', h, Instr.crcCompute.injEq]
    rfl
  · rw [decode_of_opc_frameEncode h, decode_of_opc_frameEncode h', h, Instr.frameEncode.injEq]
    rfl
  · rw [decode_of_opc_frameDecode h, decode_of_opc_frameDecode h', h, Instr.frameDecode.injEq]
    rfl
  · rw [decode_of_opc_frameCheck h, decode_of_opc_frameCheck h', h, Instr.frameCheck.injEq]
    rfl
  · rw [decode_of_reservedOpc h, decode_of_reservedOpc h',
      Laws.selectOperation_of_reserved r.opc.toFin h, hopc]
    exact iff_of_true trivial rfl

theorem agreesOnRead_iff_decode_eq (r r' : Request) : r.agreesOnRead r' ↔ decode r = decode r' := by
  by_cases hopc : r.opc = r'.opc
  · exact agreesOnRead_iff_decode_eq_of_opc_eq hopc
  · refine iff_of_false (fun h => hopc h.left) fun h => hopc ?_
    rw [← encode_decode_opc r, h, encode_decode_opc]

/-- Settles O6: agreement on the fields read is the same as decoding alike, and re-encoding an
instruction decoded from a request gives one that decodes alike. -/
theorem decodeEncodeAgree : Obligations.DecodeEncodeAgree :=
  ⟨fun _ => decode_encode,
    fun r => ⟨decode_wf r, (agreesOnRead_iff_decode_eq _ _).mpr (decode_encode (decode_wf r)).symm⟩,
    agreesOnRead_iff_decode_eq⟩

/-- Settles O9: each word or request has the opc of one row of the operation map, or a reserved one. -/
theorem writtenOutWordsDecode : Obligations.WrittenOutWordsDecode :=
  ⟨by decide, by decide, by decide, by decide, by decide, decode_of_opc_crcUpdate rfl,
    decode_of_opc_frameEncode rfl, decode_of_opc_frameDecode rfl⟩

end Sys2Proof.Machine
end

section
/-!
PROOF. Every response that an operation gives is legal, and so the invariant holds at reset and after
every step (30_encoding.md R70 to R74; 42_frame_decode.md R142; 60_exceptions.md R170).
-/

namespace Sys2Proof.Machine

theorem legalFrame_buildFrame (p : Params) (cmd : Byte) {data : List Byte} (h : data.length ≤ 249) :
    LegalFrame p (buildFrame p cmd data) where
  sync := rfl
  addr := rfl
  length := ⟨by rw [buildFrame_length]; exact Nat.le_add_left _ _, buildFrame_length_le_maxFrame h⟩
  lenByte := by rw [buildFrame_lengthByte h, buildFrame_length, overhead_eq]
  checksum := by
    have hbody : 4 ≤ (frameBody p cmd data).length := by rw [frameBody_length]; omega
    rw [buildFrame, appendChecksum_take_covered, checksumOf_appendChecksum hbody]
  residue := crc16_appendChecksum _

/-- In strict mode the strict check decides on short inputs as well. -/
theorem decodeStatus_strict (raw : List Byte) : decodeStatus true raw = strictCheck raw := by
  by_cases h : raw.length < 4
  · rw [decodeStatus_short h, strictCheck_short h]
  · rw [decodeStatus_of_le (Nat.not_lt.mp h), if_pos rfl]

theorem legalDecoded_of_split {p : Params} {buf : List Byte} {d : DecodedFrame}
    (hd : split buf = some d) (hcap : buf.length ≤ p.rawBufMax)
    (hok : decodeStatus p.strictDecode buf = .ok) : LegalDecoded p d := by
  obtain rfl := split_raw hd
  exact ⟨hd, hcap, fun hstrict => by rwa [hstrict, decodeStatus_strict] at hok⟩

theorem legalResponse_ofStatus (p : Params) (st : Status) : LegalResponse p (.ofStatus st) :=
  ⟨fun _ => rfl, fun h => absurd rfl h, fun h => absurd rfl h, nofun, nofun⟩

theorem legalResponse_ofValue (p : Params) (v : Word) : LegalResponse p (.ofValue v) :=
  ⟨fun h => absurd rfl h, fun _ => ⟨rfl, rfl⟩, fun h => absurd rfl h, nofun, nofun⟩

theorem legalResponse_ofBytes {p : Params} {f : List Byte} (h : LegalFrame p f) :
    LegalResponse p (.ofBytes f) :=
  ⟨fun h => absurd rfl h, fun h => absurd rfl h, fun _ => ⟨rfl, rfl⟩,
    fun _ hf => Option.some.inj hf ▸ h, nofun⟩

theorem legalResponse_ofFrame {p : Params} {d : Option DecodedFrame}
    (h : ∀ d', d = some d' → LegalDecoded p d') : LegalResponse p (.ofFrame d) :=
  ⟨fun h => absurd rfl h, fun h => absurd rfl h, fun h => absurd rfl h, nofun, h⟩

theorem legalResponse_frameEncodeResponse (p : Params) (cmd : Byte) (buf : List Byte) :
    LegalResponse p (frameEncodeResponse p cmd buf) := by
  by_cases h : buf.length ≤ 249
  · rw [frameEncodeResponse_of_le h]
    exact legalResponse_ofBytes (legalFrame_buildFrame p cmd h)
  · rw [frameEncodeResponse_of_lt (Nat.not_le.mp h)]
    exact legalResponse_ofStatus p _

theorem legalResponse_frameDecodeResponse {p : Params} {buf : List Byte}
    (hcap : buf.length ≤ p.rawBufMax) : LegalResponse p (frameDecodeResponse p buf) := by
  obtain h | ⟨hok, h⟩ := frameDecodeResponse_cases p buf <;> rw [h]
  · exact legalResponse_ofStatus p _
  · exact legalResponse_ofFrame fun d hd => legalDecoded_of_split hd hcap hok

theorem legalResponse_responseTo {i : Instr} {p : Params} (hfits : FitsCapacity p i) (a : Word) :
    LegalResponse p (responseTo i a p) := by
  cases i with
  | crcInit => exact legalResponse_ofStatus p _
  | crcUpdate b => exact legalResponse_ofStatus p _
  | crcRead => exact legalResponse_ofValue p a
  | crcCompute buf => exact legalResponse_ofValue p _
  | frameEncode cmd buf => exact legalResponse_frameEncodeResponse p cmd buf
  | frameDecode buf => exact legalResponse_frameDecodeResponse (hfits buf rfl)
  | frameCheck buf => exact legalResponse_ofStatus p _
  | reserved opc => exact legalResponse_ofStatus p _

/-- Settles O52: no response has been given, and the capacity is the least that R21 admits. -/
theorem resetMeetsInvariant : Obligations.ResetMeetsInvariant :=
  ⟨Nat.le_refl 255, fun _ h => absurd h List.not_mem_nil⟩

/-- Settles O53: the parameters stay, and a served request adds the one legal response `responseTo`. -/
theorem stepKeepsInvariant : Obligations.StepKeepsInvariant := by
  rintro s t ⟨hwf, hlegal⟩ h
  obtain ⟨-, rfl⟩ | ⟨rest, -, rfl⟩ | ⟨r, rest, -, hfits, rfl⟩ := step_next_cases h
  · exact ⟨hwf, hlegal⟩
  · exact ⟨hwf, hlegal⟩
  · refine ⟨hwf, List.forall_mem_append.mpr ⟨hlegal, List.forall_mem_singleton.mpr ?_⟩⟩
    exact legalResponse_responseTo hfits s.acc

end Sys2Proof.Machine
end

section
/-!
PROOF. What one step does to the port, the responses and ACC, and runs over the whole port (20_memory.md
R55; 70_reset_and_hazards.md R208, R209; 10_state.md R26).
-/

namespace Sys2Proof.Machine

theorem step_port {s t : State} (h : step s = .next t) : t.port = s.port.tail := by
  obtain ⟨hport, rfl⟩ | ⟨rest, hport, rfl⟩ | ⟨r, rest, hport, -, rfl⟩ := step_next_cases h <;>
    rw [hport]
  · rfl
  · exact resetBlock_port _
  · exact stateAfter_port _ _

/-- 70_reset_and_hazards.md R209: one response for a request, and none for anything else. -/
theorem step_responses {s t : State} (h : step s = .next t) :
    ∃ new : List Response, t.responses = s.responses ++ new ∧
      new.length = (requestsOf (s.port.take 1)).length := by
  obtain ⟨hport, rfl⟩ | ⟨rest, hport, rfl⟩ | ⟨r, rest, hport, -, rfl⟩ := step_next_cases h <;>
    rw [hport]
  · exact ⟨[], (List.append_nil _).symm, rfl⟩
  · exact ⟨[], (List.append_nil _).symm, rfl⟩
  · exact ⟨[_], stateAfter_responses _ _, rfl⟩

theorem accAfterEvent_request (a : Word) (r : Request) :
    accAfterEvent a (.request r) = accAfter (decode r) a := by
  rw [accAfterEvent]
  cases decode r <;> rfl

theorem step_acc {s t : State} (h : step s = .next t) :
    t.acc = (s.port.take 1).foldl accAfterEvent s.acc := by
  obtain ⟨hport, rfl⟩ | ⟨rest, hport, rfl⟩ | ⟨r, rest, hport, -, rfl⟩ := step_next_cases h <;>
    rw [hport]
  · rfl
  · rfl
  · exact (accAfterEvent_request s.acc r).symm

theorem requestsOf_append (es fs : List HostEvent) :
    requestsOf (es ++ fs) = requestsOf es ++ requestsOf fs := by
  induction es with
  | nil => rfl
  | cons e es ih =>
    cases e with
    | request r => exact congrArg (r :: ·) ih
    | reset => exact ih

theorem requestsOf_take_one_append_tail (es : List HostEvent) :
    requestsOf (es.take 1) ++ requestsOf es.tail = requestsOf es := by
  rw [← requestsOf_append, ← List.drop_one, List.take_append_drop]

/-- A request that fits is never refused, and serving it leaves a port whose requests fit. -/
theorem step_of_portFitsCapacity {s : State} (h : PortFitsCapacity s) :
    ∃ t, step s = .next t ∧ PortFitsCapacity t := by
  have served {t : State} (hstep : step s = .next t) : ∃ t, step s = .next t ∧ PortFitsCapacity t := by
    refine ⟨t, hstep, fun r hr => ?_⟩
    rw [step_port hstep] at hr
    rw [step_params hstep]
    refine h r ?_
    rw [← requestsOf_take_one_append_tail]
    exact List.mem_append_right _ hr
  match hport : s.port with
  | [] => exact served (step_idle hport)
  | .reset :: rest => exact served (step_reset hport)
  | .request r :: rest =>
    refine served (step_of_fits hport (h r ?_))
    rw [hport]
    exact List.mem_cons_self

end Sys2Proof.Machine
end

section
/-!
PROOF. The statements over steps and runs of 20_memory.md section 5, 10_state.md section 2 and
70_reset_and_hazards.md sections 1, 3 and 4.
-/

namespace Sys2Proof.Machine

/-- Settles O2: the reset action writes ACC alone (R200). -/
theorem resetEventClearsAccOnly : Obligations.ResetEventClearsAccOnly := fun _ _ => step_reset

/-- Settles O3: nothing is taken off an empty port. -/
theorem idleStepChangesNothing : Obligations.IdleStepChangesNothing := fun _ => step_idle

/-- Settles O4: the step decodes the request it takes, and decoding undoes encoding. -/
theorem stepRunsDecodedInstruction : Obligations.StepRunsDecodedInstruction := by
  refine ⟨fun s r rest hport => ⟨decode_wf r, step_request hport⟩, fun s i rest hwf hport => ?_⟩
  rw [step_request hport, decode_encode hwf]

/-- Settles O5: a step idles, resets or serves one request, and takes the head of the port. -/
theorem stepServesOldestEvent : Obligations.StepServesOldestEvent := fun _ _ h =>
  ⟨step_port h, step_responses h⟩

/-- Settles O50: each step folds the event it takes, and the rest of the run folds those behind it. -/
theorem accFollowsEventsTaken : Obligations.AccFollowsEventsTaken := by
  intro n s t h
  induction n generalizing s with
  | zero =>
    rw [run_zero] at h
    cases h
    rfl
  | succ n ih =>
    obtain ⟨u, hu, hrest⟩ := run_succ_cases h
    rw [ih u hrest, step_acc hu, step_port hu, ← List.foldl_append, ← List.drop_one, ← List.take_add,
      Nat.add_comm]

/-- Settles O51: by induction on the number of events; each step takes one and answers it if it is a
request. -/
theorem everyRequestAnsweredOnce : Obligations.EveryRequestAnsweredOnce := by
  intro s hfits
  induction hlen : s.port.length generalizing s with
  | zero =>
    have hport := List.length_eq_zero_iff.mp hlen
    exact ⟨s, run_zero s, hport, [], (List.append_nil _).symm, by rw [hport]; rfl⟩
  | succ n ih =>
    obtain ⟨u, hu, hufits⟩ := step_of_portFitsCapacity hfits
    obtain ⟨first, hfirst, hfirstlen⟩ := step_responses hu
    have hulen : u.port.length = n := by rw [step_port hu, List.length_tail, hlen, Nat.add_sub_cancel]
    obtain ⟨t, ht, hport, others, hothers, hotherslen⟩ := ih u hufits hulen
    refine ⟨t, (run_succ_next hu).trans ht, hport, first ++ others, ?_, ?_⟩
    · rw [hothers, hfirst, List.append_assoc]
    · rw [List.length_append, hfirstlen, hotherslen, step_port hu, ← List.length_append,
        requestsOf_take_one_append_tail]

/-- Settles O48: the two steps in turn (R204). -/
theorem readSeesUpdateBeforeIt : Obligations.ReadSeesUpdateBeforeIt := by
  intro s b
  rw [run_issue_crcUpdate, run_issue_crcRead, run_zero, issue_nil]
  refine congrArg _ (State.eq_of_fields rfl ?_ rfl rfl)
  simp [Response.ofStatus, Response.ofValue]

/-- The stream of R106 from any state: CRC_READ's response is the last one given. -/
theorem run_crcStream_last_response (bs : List Byte) (s : State) :
    ∃ t : State,
      run (bs.length + 2) (issue ([Instr.crcInit] ++ bs.map Instr.crcUpdate ++ [Instr.crcRead]) s) =
        .next t ∧
      t.responses.getLast? = some ⟨.ok, some (crc16 bs), none, none⟩ := by
  obtain ⟨hstream, -, -⟩ := streamingEqualsOneShot
  exact ⟨_, hstream s bs, List.getLast?_concat⟩

/-- Settles O49: the first sequence of requests is the stream of `xs ++ ys ++ zs`; the second is that of
`ys ++ zs`, from the state that the requests before its CRC_INIT leave. -/
theorem interleavedStreamsMerge : Obligations.InterleavedStreamsMerge := by
  intro s xs ys zs
  constructor
  · have hmerged := run_crcStream_last_response (xs ++ ys ++ zs) s
    simpa only [List.length_append, List.map_append, List.append_assoc, Nat.add_assoc] using hmerged
  · have hsteps : xs.length + ys.length + zs.length + 3 = xs.length + ((ys ++ zs).length + 2) + 1 := by
      rw [List.length_append]; omega
    have hrequests : [Instr.crcInit] ++ xs.map Instr.crcUpdate ++ [Instr.crcInit] ++
          ys.map Instr.crcUpdate ++ zs.map Instr.crcUpdate ++ [Instr.crcRead] =
        Instr.crcInit :: (xs.map Instr.crcUpdate ++
          ([Instr.crcInit] ++ (ys ++ zs).map Instr.crcUpdate ++ [Instr.crcRead])) := by
      simp only [List.map_append, List.append_assoc, List.cons_append, List.nil_append]
    rw [hsteps, hrequests, run_issue_crcInit, run_issue_crcUpdates]
    exact run_crcStream_last_response (ys ++ zs) _

end Sys2Proof.Machine
end

section
/-!
PROOF. What an operation does not read: ACC, but for CRC_UPDATE and CRC_READ (10_state.md R26), and the
command table (00_scope.md R19).
-/

namespace Sys2Proof.Machine

/-- 40_crc.md R104: CRC_READ alone has a response that depends on ACC. -/
theorem responseTo_congr_acc {i : Instr} (hread : i ≠ .crcRead) (a a' : Word) (p : Params) :
    responseTo i a p = responseTo i a' p := by
  cases i with
  | crcRead => exact absurd rfl hread
  | _ => rfl

/-- Settles O43: the capacity check reads the parameters alone, so with another ACC the instruction
answers as well; CRC_INIT leaves its constant and the others leave the ACC they find. -/
theorem onlyStreamingOperationsTouchAcc : Obligations.OnlyStreamingOperationsTouchAcc := by
  refine ⟨fun i s t h hinit hupdate => ?_, fun i s t a h hread hupdate => ?_⟩
  · obtain ⟨-, rfl⟩ := (exec_next_iff i s t).mp h
    exact accAfter_eq_self hinit hupdate s.acc
  · obtain ⟨hfits, rfl⟩ := (exec_next_iff i s t).mp h
    refine ⟨stateAfter i { s with acc := a }, exec_of_fits hfits, ?_, ?_⟩
    · rw [stateAfter_responses, stateAfter_responses, responseTo_congr_acc hread a s.acc]
    · split_ifs with hinit
      · rw [hinit]; rfl
      · exact accAfter_eq_self hinit hupdate a

/-- The state with another command table in its parameters. -/
def State.withCodes (codes : CommandCodes) (s : State) : State :=
  { s with params := { s.params with cmdCode := codes } }

theorem responseTo_withCodes (codes : CommandCodes) (i : Instr) (s : State) :
    responseTo i s.acc (s.withCodes codes).params = responseTo i s.acc s.params := by
  cases i with
  | frameEncode cmd buf => exact frameEncodeResponse_congr rfl rfl cmd buf
  | frameDecode buf => exact frameDecodeResponse_congr rfl buf
  | _ => rfl

theorem stateAfter_withCodes (codes : CommandCodes) (i : Instr) (s : State) :
    stateAfter i (s.withCodes codes) = (stateAfter i s).withCodes codes := by
  refine State.eq_of_fields rfl ?_ rfl rfl
  exact congrArg (s.responses ++ [·]) (responseTo_withCodes codes i s)

theorem step_withCodes_next {s t : State} (codes : CommandCodes) (h : step s = .next t) :
    step (s.withCodes codes) = .next (t.withCodes codes) := by
  obtain ⟨hport, rfl⟩ | ⟨rest, hport, rfl⟩ | ⟨r, rest, hport, hfits, rfl⟩ := step_next_cases h
  · exact step_idle hport
  · exact step_reset hport
  · rw [← stateAfter_withCodes]
    exact step_of_fits (s := s.withCodes codes) hport hfits

theorem step_withCodes_refused {s : State} {why : Refusal} (codes : CommandCodes)
    (h : step s = .refused why) : step (s.withCodes codes) = .refused why := by
  obtain ⟨r, rest, hport, hexec⟩ := step_refused_iff.mp h
  rw [exec_refused_iff] at hexec
  exact step_refused_iff.mpr ⟨r, rest, hport, exec_refused_iff.mpr hexec⟩

/-- Settles O45: neither the capacity check nor any response reads the table. -/
theorem commandTableIsNeverRead : Obligations.CommandTableIsNeverRead := fun _ codes =>
  ⟨fun _ => step_withCodes_next codes, fun _ => step_withCodes_refused codes⟩

end Sys2Proof.Machine
end
